-- ==== Sys2Proof/Word.lean ====
section
/-! DEFINITION. The value types of the engine: every value is an unsigned integer of a stated width (R10). -/

namespace Sys2Proof

/-- A `u32` (R10): a register value, a command word. -/
abbrev Word := BitVec 32

/-- A `u16` (R10): the IMM16 and ADDR operand fields. -/
abbrev Half := BitVec 16

/-- A `u8` (R10): a byte of a frame, of the staging buffer, an opcode, a rejection code. -/
abbrev Byte := BitVec 8

end Sys2Proof
end

