-- ==== Sys2Proof/Config.lean ====
section
/-! DEFINITION. What is fixed for one machine: the sizes the types rest on (R8), the two named parameters the spec
leaves OPEN (D3 `BASE`, D34 `bus_error_report`), and the one value it leaves unspecified (R202, E7). -/

namespace Sys2Proof.Config

/-- DIN_CAP, the capacity of the staging buffer (R8, R120). -/
abbrev dinCap : Nat := 128

/-- FBUF_SIZE, the size of the frame buffer (R8, D12). -/
abbrev fbufSize : Nat := 140

/-- The size of the register window (R8, R28). -/
abbrev windowSize : Nat := 0x400

/-- Which multiple of 0x400 `BASE` is: the platform's parameter, without a body, so that a claim holds for every
placement of the window (R9, D3, E8; log entry 3). -/
opaque baseIndex : Nat

/-- `BASE`, the host bus address of the window: "a multiple of 0x400" (R9). -/
def base : Nat := windowSize * baseIndex

/-- The platform's ways of reporting a bus error to the host's program (D34): the two the spec names as examples, and
any other, by a number of the platform's own. -/
inductive BusErrorReport where
  | hostException
  | ignored (readsAs : Word)
  | other (platformCode : Nat)
deriving DecidableEq, Repr, Inhabited

/-- `bus_error_report` (R186, D34, E9): OPEN, so without a body (log entry 4). -/
opaque busErrorReport : BusErrorReport

/-- The value that a read overlapped by a physical reset returns (R202, E7): any value, a fresh one for each such read
(log entry 5). -/
opaque overlappedRead : Nat → Word

end Sys2Proof.Config
end

