-- ==== Sys2Proof/Syntax.lean ====
section
/-! DEFINITION. The command set as syntax: the 17 commands of R75 with their operands (R71, R72), their names and operand
formats, and the assembly lines of R80 and R81. The fields of an `Instr` have the widths of R71, so every term of `Instr`
has an encoding; what can be ill-formed is an assembly line (WellFormed.lean). -/

namespace Sys2Proof

/-- One command, decoded: one constructor per row of R75 (and of opcode_table.json), in the table's order. -/
inductive Instr where
  | nop
  | softReset
  | errClear
  | crcInit
  | crcByte (b0 : Byte)
  | crcDin
  | dinClear
  | dinPush1 (b0 : Byte)
  | dinPush2 (b0 b1 : Byte)
  | dinPush3 (b0 b1 b2 : Byte)
  | sidLo (imm16 : Half)
  | sidHi (imm16 : Half)
  | buildBegin (v : BitVec 1)
  | buildBlock (addr : Half) (len : Byte)
  | buildBlockV (addr : Half) (len : Byte)
  | buildComplete (fn : Byte)
  | frameClear
deriving DecidableEq, Repr

/-- The mnemonics of R75. -/
inductive Mnemonic where
  | nop | softReset | errClear
  | crcInit | crcByte | crcDin
  | dinClear | dinPush1 | dinPush2 | dinPush3 | sidLo | sidHi
  | buildBegin | buildBlock | buildBlockV | buildComplete | frameClear
deriving DecidableEq, Repr

/-- Every mnemonic, in the order of R75. -/
def Mnemonic.all : List Mnemonic :=
  [.nop, .softReset, .errClear, .crcInit, .crcByte, .crcDin, .dinClear, .dinPush1, .dinPush2, .dinPush3,
   .sidLo, .sidHi, .buildBegin, .buildBlock, .buildBlockV, .buildComplete, .frameClear]

/-- The command an instruction is an instance of. -/
def Instr.mnemonic : Instr → Mnemonic
  | .nop => .nop
  | .softReset => .softReset
  | .errClear => .errClear
  | .crcInit => .crcInit
  | .crcByte _ => .crcByte
  | .crcDin => .crcDin
  | .dinClear => .dinClear
  | .dinPush1 _ => .dinPush1
  | .dinPush2 _ _ => .dinPush2
  | .dinPush3 _ _ _ => .dinPush3
  | .sidLo _ => .sidLo
  | .sidHi _ => .sidHi
  | .buildBegin _ => .buildBegin
  | .buildBlock _ _ => .buildBlock
  | .buildBlockV _ _ => .buildBlockV
  | .buildComplete _ => .buildComplete
  | .frameClear => .frameClear

/-- The eight operand formats of R71. -/
inductive Format where
  | f0 | fb | fb2 | fb3 | fh | fv | fblk | ffn
deriving DecidableEq, Repr

/-- The widths in bits of a format's operands, in the order in which R80 lists them. -/
def Format.operandWidths : Format → List Nat
  | .f0 => []
  | .fb => [8]
  | .fb2 => [8, 8]
  | .fb3 => [8, 8, 8]
  | .fh => [16]
  | .fv => [1]
  | .fblk => [16, 8]
  | .ffn => [8]

/-- The pseudo-instructions of R81. -/
inductive Pseudo where
  | sidSet | dinLoad | crcOf | beginFrame | block | complete
deriving DecidableEq, Repr

/-- What an assembly line begins with: the mnemonic of a command (R80) or the name of a pseudo-instruction (R81). -/
inductive AsmOp where
  | command (m : Mnemonic)
  | pseudo (p : Pseudo)
deriving DecidableEq, Repr

/-- One line of assembly (R80): a name and its operands, "unsigned numbers", in the order written. -/
structure AsmLine where
  op : AsmOp
  operands : List Nat
deriving DecidableEq, Repr

end Sys2Proof
end

