-- ==== Sys2Proof/WellFormed.lean ====
section
/-! DEFINITION. When an assembly line is well formed: it has the operands its name takes, and "each must fit its field"
(R80); the byte strings of the pseudo-instructions have the lengths R81 gives. An `Instr` needs no such check: its
fields carry their widths (R71, R72), and the ranges of ADDR, LEN and FN are checked by the command, not by the decoder
(R72). -/

namespace Sys2Proof

/-- The format of each command (R75). -/
def Mnemonic.format : Mnemonic → Format
  | .nop => .f0
  | .softReset => .f0
  | .errClear => .f0
  | .crcInit => .f0
  | .crcByte => .fb
  | .crcDin => .f0
  | .dinClear => .f0
  | .dinPush1 => .fb
  | .dinPush2 => .fb2
  | .dinPush3 => .fb3
  | .sidLo => .fh
  | .sidHi => .fh
  | .buildBegin => .fv
  | .buildBlock => .fblk
  | .buildBlockV => .fblk
  | .buildComplete => .ffn
  | .frameClear => .f0

/-- The numbers are as many as the fields, and each fits its field. -/
def fitsFields : List Nat → List Nat → Bool
  | [], [] => true
  | w :: ws, x :: xs => decide (x < 2 ^ w) && fitsFields ws xs
  | _, _ => false

/-- A byte string that DIN_LOAD can stage: bytes, and at most DIN_CAP of them ("for n ≤ 128", R81). -/
def fitsDin (bytes : List Nat) : Bool :=
  bytes.all (fun b => decide (b < 256)) && decide (bytes.length ≤ Config.dinCap)

/-- The operands a pseudo-instruction takes (R81); DIN_LOAD's bound holds for CRC_OF, BLOCK and COMPLETE too, which expand
through it (log entry 7). -/
def Pseudo.operandsFit : Pseudo → List Nat → Bool
  | .sidSet, ops => fitsFields [32] ops
  | .dinLoad, ops => fitsDin ops
  | .crcOf, ops => fitsDin ops
  | .beginFrame, ops => fitsFields (32 :: (List.replicate 14 8 ++ [1])) ops
  | .block, ops => fitsFields [16, 8, 1] (ops.take 3) && fitsDin (ops.drop 3)
  | .complete, ops => fitsFields [8] (ops.take 1) && fitsDin (ops.drop 1)

/-- A well-formed assembly line; any other is "an assembly error, never truncated" (R80). -/
def AsmLine.wellFormed (l : AsmLine) : Bool :=
  match l.op with
  | .command m => fitsFields m.format.operandWidths l.operands
  | .pseudo p => p.operandsFit l.operands

end Sys2Proof
end

