-- ==== Sys2Proof/Decode.lean ====
section
/-! DEFINITION. Command words: the fields of R70 and R71, the decoder (steps 1 and 3 of R170: total, rejecting by name)
and, after it, the encoder (R80), both from the opcode map of R75. -/

namespace Sys2Proof

/-- The opcode of each command (R75). -/
def Mnemonic.opcode : Mnemonic → Byte
  | .nop => 0x00
  | .softReset => 0x01
  | .errClear => 0x02
  | .crcInit => 0x10
  | .crcByte => 0x11
  | .crcDin => 0x12
  | .dinClear => 0x20
  | .dinPush1 => 0x21
  | .dinPush2 => 0x22
  | .dinPush3 => 0x23
  | .sidLo => 0x30
  | .sidHi => 0x31
  | .buildBegin => 0x40
  | .buildBlock => 0x41
  | .buildBlockV => 0x42
  | .buildComplete => 0x43
  | .frameClear => 0x4F

/-- The BUILD_* commands: "the framer opcodes 0x40, 0x41, 0x42 and 0x43" (R75). -/
def Mnemonic.isBuild : Mnemonic → Bool
  | .buildBegin => true
  | .buildBlock => true
  | .buildBlockV => true
  | .buildComplete => true
  | .nop => false
  | .softReset => false
  | .errClear => false
  | .crcInit => false
  | .crcByte => false
  | .crcDin => false
  | .dinClear => false
  | .dinPush1 => false
  | .dinPush2 => false
  | .dinPush3 => false
  | .sidLo => false
  | .sidHi => false
  | .frameClear => false

/-- The reserved bits of each format (R71). -/
def Format.reservedMask : Format → Word
  | .f0 => 0x00FFFFFF
  | .fb => 0x00FFFF00
  | .fb2 => 0x00FF0000
  | .fb3 => 0x00000000
  | .fh => 0x00FF0000
  | .fv => 0x00FFFFFE
  | .fblk => 0x00000000
  | .ffn => 0x00FFFF00

/-- `match` of a row of R75: `OP << 24`. -/
def Mnemonic.matchWord (m : Mnemonic) : Word :=
  m.opcode.setWidth 32 <<< 24

/-- `mask` of a row of R75: 0xFF000000 OR the format's reserved-bit mask. -/
def Mnemonic.legalMask (m : Mnemonic) : Word :=
  0xFF000000 ||| m.format.reservedMask

/-! The fields of a command word (R70, R71). -/

/-- OP = w[31:24]. -/
def opField (w : Word) : Byte := w.extractLsb' 24 8

/-- B0 = w[7:0]; FN is the same field in format FFN. -/
def b0Field (w : Word) : Byte := w.extractLsb' 0 8

/-- B1 = w[15:8]. -/
def b1Field (w : Word) : Byte := w.extractLsb' 8 8

/-- B2 = w[23:16]; LEN is the same field in format FBLK. -/
def b2Field (w : Word) : Byte := w.extractLsb' 16 8

/-- IMM16 = w[15:0]; ADDR is the same field in format FBLK. -/
def halfField (w : Word) : Half := w.extractLsb' 0 16

/-- V = w[0]. -/
def vField (w : Word) : BitVec 1 := w.extractLsb' 0 1

/-- The command an opcode stands for, if it is assigned (R75, R76). -/
def mnemonicOf? (op : Byte) : Option Mnemonic :=
  Mnemonic.all.find? (fun m => m.opcode == op)

/-- The command `m` with the operands that word `w` carries (R71, R72). -/
def instrOf (m : Mnemonic) (w : Word) : Instr :=
  match m with
  | .nop => .nop
  | .softReset => .softReset
  | .errClear => .errClear
  | .crcInit => .crcInit
  | .crcByte => .crcByte (b0Field w)
  | .crcDin => .crcDin
  | .dinClear => .dinClear
  | .dinPush1 => .dinPush1 (b0Field w)
  | .dinPush2 => .dinPush2 (b0Field w) (b1Field w)
  | .dinPush3 => .dinPush3 (b0Field w) (b1Field w) (b2Field w)
  | .sidLo => .sidLo (halfField w)
  | .sidHi => .sidHi (halfField w)
  | .buildBegin => .buildBegin (vField w)
  | .buildBlock => .buildBlock (halfField w) (b2Field w)
  | .buildBlockV => .buildBlockV (halfField w) (b2Field w)
  | .buildComplete => .buildComplete (b0Field w)
  | .frameClear => .frameClear

/-- Why a word is no command: R76 (an opcode that is not assigned) or R77 (a reserved bit of an assigned command is 1;
step 2 of R170 needs to know of which command). -/
inductive DecodeError where
  | illegalOpcode (op : Byte)
  | reservedNonzero (m : Mnemonic)
deriving DecidableEq, Repr

/-- The decoder: the opcode first (R170 step 1), then the reserved bits (R170 step 3), then the fields. -/
def decode (w : Word) : Except DecodeError Instr :=
  match mnemonicOf? (opField w) with
  | none => .error (.illegalOpcode (opField w))
  | some m =>
    if w &&& m.format.reservedMask ≠ 0 then .error (.reservedNonzero m) else .ok (instrOf m w)

/-- The operand fields of an instruction, in place in bits 23:0 of its word (R71). -/
def fieldBits : Instr → Word
  | .nop => 0
  | .softReset => 0
  | .errClear => 0
  | .crcInit => 0
  | .crcByte b0 => b0.setWidth 32
  | .crcDin => 0
  | .dinClear => 0
  | .dinPush1 b0 => b0.setWidth 32
  | .dinPush2 b0 b1 => (b1.setWidth 32 <<< 8) ||| b0.setWidth 32
  | .dinPush3 b0 b1 b2 => (b2.setWidth 32 <<< 16) ||| (b1.setWidth 32 <<< 8) ||| b0.setWidth 32
  | .sidLo imm16 => imm16.setWidth 32
  | .sidHi imm16 => imm16.setWidth 32
  | .buildBegin v => v.setWidth 32
  | .buildBlock addr len => (len.setWidth 32 <<< 16) ||| addr.setWidth 32
  | .buildBlockV addr len => (len.setWidth 32 <<< 16) ||| addr.setWidth 32
  | .buildComplete fn => fn.setWidth 32
  | .frameClear => 0

/-- The encoder: "`(OP << 24) OR fields`" (R80). -/
def encode (i : Instr) : Word :=
  i.mnemonic.matchWord ||| fieldBits i

/-- The instruction the decoder reads from a word of the opcode table: every row is one 32-bit word (R70, R79), so the
bits above `nbits` are 0 and a longer number is no command. -/
def decodeTableWord (nbits w : Nat) : Option Instr :=
  if w % 2 ^ nbits < 2 ^ 32 then (decode (BitVec.ofNat 32 (w % 2 ^ nbits))).toOption else none

end Sys2Proof
end

