-- ==== Sys2Proof/Machine/State.lean ====
section
/-! DEFINITION. The machine's state as plain data: the engine's nine elements (R22), and beside them the host's side of the
port (R50, R57): the accesses the host has still to make and the response to the last one. -/

namespace Sys2Proof.Machine

/-- The engine: "A model's state record has exactly these fields" (R22). The spec gives it no memory (R50): the two buffers
are arrays of a fixed length (log entry 9). -/
@[ext] structure Engine where
  /-- The running CRC register, not inverted (R23). -/
  crc : Word
  /-- The session id (R24). -/
  sid : Word
  /-- The staging buffer (R25). -/
  din : Vector Byte Config.dinCap
  /-- The number of bytes staged: an "integer 0..128" (R22). -/
  dinCnt : Fin (Config.dinCap + 1)
  /-- The frame buffer (R26). -/
  fbuf : Vector Byte Config.fbufSize
  /-- Whether `fbuf` holds a complete frame built by an accepted command (R26). -/
  fvalid : Bool
  /-- Sticky: a command has been rejected since the last clear (R27). -/
  err : Bool
  /-- The code of the first rejection since the last clear (R27, R180). -/
  errcode : Byte
  /-- Whether the most recent command was rejected (R27). -/
  lastRej : Bool
deriving DecidableEq, Repr

/-- The reset values (R22, R200): "No element is left unspecified." -/
def Engine.reset : Engine where
  crc := 0xFFFFFFFF
  sid := 0x00000000
  din := Vector.replicate Config.dinCap 0x00
  dinCnt := 0
  fbuf := Vector.replicate Config.fbufSize 0x00
  fvalid := false
  err := false
  errcode := 0x00
  lastRej := false

/-- The direction of an access. The data of a write are its low 32 bits: a write of another width is a bus error
whatever its data are (R51). -/
inductive AccessKind where
  | read
  | write (data : Word)
deriving DecidableEq, Repr

/-- An access that falls in the register window, at an offset from `BASE` (R9, R51): of any width in bytes, a single
access (one beat) or a burst (more). -/
structure WindowAccess where
  off : BitVec 10
  bytes : Nat
  beats : Nat
  kind : AccessKind
deriving DecidableEq, Repr

/-- An access at a host bus address: the primitives MemRead and MemWrite (R12). -/
structure BusAccess where
  addr : Nat
  bytes : Nat
  beats : Nat
  kind : AccessKind
deriving DecidableEq, Repr

/-- An access as the host issues it: at an offset (HostRead, HostWrite) or at a bus address (MemRead, MemWrite; R12). -/
inductive HostAccess where
  | window (a : WindowAccess)
  | bus (b : BusAccess)
deriving DecidableEq, Repr

/-- What the outside world does to the engine, one step each (R57, R202): a host access, a hardware reset between
accesses, or a physical reset that overlaps an access. -/
inductive HostEvent where
  | access (a : HostAccess)
  | reset
  | resetDuring (a : HostAccess)
deriving DecidableEq, Repr

/-- The engine's answer to an access: the word read (R52), the completion of a write (R181), or an error response on the
bus (R186). -/
inductive Response where
  | readData (value : Word)
  | writeDone
  | busError
deriving DecidableEq, Repr

/-- The machine: the engine, and the host's side of its port. `accesses`, `response` and `overlapDraws` are the MODEL's
own fields, no state of the engine (log entries 1, 2 and 5). -/
structure State where
  /-- The engine's nine elements (R22). -/
  engine : Engine
  /-- What the host still has to do, the next access first: "The order of execution is the order of the host's writes"
  (R21, R57). -/
  accesses : List HostEvent
  /-- The engine's response to the last access, if the engine was accessed since reset. -/
  response : Option Response
  /-- How many reads a reset has overlapped: the argument of the free value of R202. -/
  overlapDraws : Nat
deriving DecidableEq, Repr

/-- The state right after reset (R200): the engine "waits for the host's first access" (R201), which is not yet there. -/
def State.reset : State where
  engine := Engine.reset
  accesses := []
  response := none
  overlapDraws := 0

/-- Reasons for which the machine stops with a fault: there are none, so no one raises one. A rejected command is recorded
in the engine and the machine goes on (R181, R184); a bus error is a response, changes no engine state, and the
machine goes on (R186). Safe: the spec gives every command word and every access an effect (log entry 8). -/
inductive Fault where
deriving DecidableEq, Repr

/-- Reasons for which a step has no meaning. -/
inductive Refusal where
  /-- Raised by an arm of `exec` that has no meaning yet; no arm raises it now. Safe: the machine stops where the
  hardware goes on. -/
  | notModelled (mnemonic : String)
deriving DecidableEq, Repr

/-- What a step of this machine answers. -/
abbrev StepOutcome := Host.Outcome State Fault Refusal

end Sys2Proof.Machine
end

