-- ==== Sys2Proof/Machine/CrcUnit.lean ====
section
/-! DEFINITION. The CRC-32/Ethernet function (R100 to R102). -/

namespace Sys2Proof.Machine

/-- 0x04C11DB7 "with its 32 bits reversed" (R101; 90_conflicts C1). -/
def crcReversedPoly : Word := 0xEDB88320

/-- The initial value, and the final XOR (R100). -/
def crcInitValue : Word := 0xFFFFFFFF

@[inherit_doc crcInitValue]
def crcFinalXor : Word := 0xFFFFFFFF

/-- The body of the loop of R101. -/
def crcRound (c : Word) : Word :=
  if c.getLsbD 0 then (c >>> 1) ^^^ crcReversedPoly else c >>> 1

/-- The loop of R101, `n` times. -/
def crcRounds : Nat → Word → Word
  | 0, c => c
  | n + 1, c => crcRounds n (crcRound c)

/-- `crc_update(c, b)`, one byte step (R101). -/
def crcUpdate (c : Word) (b : Byte) : Word :=
  crcRounds 8 (c ^^^ b.setWidth 32)

/-- The loop of R102 from any running value: the bytes folded in, in order. -/
def crcFold (c : Word) (bytes : List Byte) : Word :=
  bytes.foldl crcUpdate c

/-- `crc32(s)` (R102). -/
def crc32 (bytes : List Byte) : Word :=
  crcFold crcInitValue bytes ^^^ crcFinalXor

end Sys2Proof.Machine
end

