-- ==== Sys2Proof/Machine/Operands.lean ====
section
/-! DEFINITION. Byte arrays and byte order (R11, R55, R56), and the implicit operands that commands take from the staging
buffer (R73). -/

namespace Sys2Proof.Machine

/-- `a[i]`, byte `i` of a buffer (R11). -/
def byteAt {n : Nat} (a : Vector Byte n) (i : Nat) : Byte :=
  a[i]?.getD 0

/-- `a[lo..hi)`: "empty when" `lo = hi` (R11). -/
def slice {n : Nat} (a : Vector Byte n) (lo hi : Nat) : List Byte :=
  (a.toList.take hi).drop lo

/-- `a[i..j) <- s`, with `j = i + s.length` (R11). -/
def writeBytes {n : Nat} (a : Vector Byte n) (i : Nat) : List Byte → Vector Byte n
  | [] => a
  | b :: bs => writeBytes (a.setIfInBounds i b) (i + 1) bs

/-- `zeros(n)` (R11). -/
def zeros (n : Nat) : List Byte := List.replicate n 0x00

/-- `le16(v)`: `v[7:0], v[15:8]` (R11). -/
def le16 (v : Half) : List Byte :=
  [v.extractLsb' 0 8, v.extractLsb' 8 8]

/-- `le32(v)`: `v[7:0], v[15:8], v[23:16], v[31:24]` (R11). -/
def le32 (v : Word) : List Byte :=
  [v.extractLsb' 0 8, v.extractLsb' 8 8, v.extractLsb' 16 8, v.extractLsb' 24 8]

/-- `pack32(a, i)`: byte `i + j` in bits `8j+7:8j` (R11, R34). -/
def pack32 {n : Nat} (a : Vector Byte n) (i : Nat) : Word :=
  (byteAt a i).setWidth 32 ||| ((byteAt a (i + 1)).setWidth 32 <<< 8)
    ||| ((byteAt a (i + 2)).setWidth 32 <<< 16) ||| ((byteAt a (i + 3)).setWidth 32 <<< 24)

/-- The staged bytes `din[0..din_cnt)`: the input of CRC_DIN (R108). -/
def stagedBytes (e : Engine) : List Byte := slice e.din 0 e.dinCnt.val

/-- The IV, `din[0..14)`: an input of BUILD_BEGIN (R145). -/
def ivBytes (e : Engine) : List Byte := slice e.din 0 14

/-- The block data with its zero fill, `din[0..128)`: an input of BUILD_BLOCK and BUILD_BLOCK_V (R150). -/
def blockBytes (e : Engine) : List Byte := slice e.din 0 128

/-- The version string, `din[0..120)`: an input of BUILD_COMPLETE (R160). -/
def versionBytes (e : Engine) : List Byte := slice e.din 0 120

end Sys2Proof.Machine
end

