-- ==== Sys2Proof/Machine/Flags.lean ====
section
/-! DEFINITION. The rejection codes (R180) and the flags as the host reads them in STATUS (R30, R37). -/

namespace Sys2Proof.Machine

/-- The causes of a rejection (R180). -/
inductive RejectCode where
  | illegalOpcode
  | reservedNonzero
  | dinOverflow
  | badAddress
  | badLength
  | badIvCount
  | badFunction
deriving DecidableEq, Repr

/-- The code of each cause, as ERRCODE shows it (R180). -/
def RejectCode.code : RejectCode → Byte
  | .illegalOpcode => 0x01
  | .reservedNonzero => 0x02
  | .dinOverflow => 0x03
  | .badAddress => 0x04
  | .badLength => 0x05
  | .badIvCount => 0x06
  | .badFunction => 0x07

/-- A flag as a bit of a word, `zext_32` (R30). -/
def flagBit (f : Bool) : Word := (BitVec.ofBool f).setWidth 32

/-- STATUS as the host reads it (R30), bits 7:3 zero. -/
def statusWord (e : Engine) : Word :=
  flagBit e.fvalid ||| (flagBit e.err <<< 1) ||| (flagBit e.lastRej <<< 2)
    ||| (e.errcode.setWidth 32 <<< 8) ||| ((byteAt e.fbuf 0).setWidth 32 <<< 16)
    ||| (BitVec.ofNat 32 e.dinCnt.val <<< 24)

end Sys2Proof.Machine
end

