-- ==== Sys2Proof/Machine/Ops.lean ====
section
/-! DEFINITION. The operations the commands share: being accepted, being rejected (the machine's only exception, which
takes no trap: R181, R184) and its undoing, discarding and finishing a frame, appending to the staging buffer. -/

namespace Sys2Proof.Machine

/-- Step 5 of R170: acceptance. -/
def Engine.accept (e : Engine) : Engine := { e with lastRej := false }

/-- `raise Reject(code)` (R181): the record, of which "the first rejection since the last clear is kept". -/
def Engine.reject (code : RejectCode) (e : Engine) : Engine :=
  if e.err then { e with lastRej := true }
  else { e with lastRej := true, err := true, errcode := code.code }

/-- Clearing the rejection record, the return from the only exception there is (R172, R185). -/
def Engine.clearRejection (e : Engine) : Engine := { e with err := false, errcode := 0x00 }

/-- Steps 4 and 5 of R170: a command's own checks and effects, then acceptance; or, where a check fails, rejection from
the state before the command's effects (R183: all or nothing). -/
def Engine.command (body : Engine → Except RejectCode Engine) (e : Engine) : Engine :=
  match body e with
  | .ok e' => e'.accept
  | .error code => e.reject code

/-- `discard_frame()` (R140). -/
def Engine.discardFrame (e : Engine) : Engine :=
  { e with fbuf := Vector.replicate Config.fbufSize 0x00, fvalid := false }

/-- A BUILD_* command: the frame is discarded "first: before its reserved-bit check, before its own checks, and whether
it is then accepted or rejected" (R140, R170 step 2). -/
def Engine.build (body : Engine → Except RejectCode Engine) (e : Engine) : Engine :=
  e.discardFrame.command body

/-- `fbuf[i..) <- bytes`. -/
def Engine.putFrame (i : Nat) (bytes : List Byte) (e : Engine) : Engine :=
  { e with fbuf := writeBytes e.fbuf i bytes }

/-- `finalize(L)`, the CRC patch after assembly (R142). -/
def Engine.finalize (length : Nat) (e : Engine) : Engine :=
  { e with fbuf := writeBytes e.fbuf 4 (le32 (crc32 (slice e.fbuf 8 length))), fvalid := true }

/-- `push(k, b0, ..., b(k-1))`: all or nothing (R122). -/
def Engine.push (bytes : List Byte) (e : Engine) : Except RejectCode Engine :=
  if h : e.dinCnt.val + bytes.length > Config.dinCap then .error .dinOverflow
  else .ok { e with
    din := writeBytes e.din e.dinCnt.val bytes
    dinCnt := ⟨e.dinCnt.val + bytes.length, by omega⟩ }

/-- A change of the engine alone, which is all that a command is (R53). -/
def State.onEngine (f : Engine → Engine) (s : State) : State := { s with engine := f s.engine }

/-- A step that runs a command: `f` on the engine, and the machine goes on. -/
def perform (f : Engine → Engine) (s : State) : StepOutcome := .next (s.onEngine f)

end Sys2Proof.Machine
end

