-- ==== Sys2Proof/Machine/Control.lean ====
section
/-! DEFINITION. The control commands (43_control). -/

namespace Sys2Proof.Machine

/-- NOP: only the acceptance (R171). -/
def execNop (s : State) : StepOutcome := perform (Engine.command .ok) s

/-- SOFT_RESET: "every element" takes its reset value (R173). -/
def execSoftReset (s : State) : StepOutcome := perform (Engine.command fun _ => .ok Engine.reset) s

/-- ERR_CLEAR (R172). -/
def execErrClear (s : State) : StepOutcome := perform (Engine.command fun e => .ok e.clearRejection) s

end Sys2Proof.Machine
end

