-- ==== Sys2Proof/Machine/Crc.lean ====
section
/-! DEFINITION. The CRC commands (40_crc). -/

namespace Sys2Proof.Machine

/-- CRC_INIT (R106). -/
def execCrcInit (s : State) : StepOutcome :=
  perform (Engine.command fun e => .ok { e with crc := crcInitValue }) s

/-- CRC_BYTE B0 (R107). -/
def execCrcByte (b0 : Byte) (s : State) : StepOutcome :=
  perform (Engine.command fun e => .ok { e with crc := crcUpdate e.crc b0 }) s

/-- CRC_DIN: the staged bytes, from the running value (R108, D31). -/
def execCrcDin (s : State) : StepOutcome :=
  perform (Engine.command fun e => .ok { e with crc := crcFold e.crc (stagedBytes e) }) s

end Sys2Proof.Machine
end

