-- ==== Sys2Proof/Machine/Framer.lean ====
section
/-! DEFINITION. The framer commands (42_framer): each frame is written field by field with a zero placeholder for its CRC,
which is patched in last (R142). -/

namespace Sys2Proof.Machine

/-- The body of BUILD_BEGIN (R145). -/
def Engine.buildBegin (v : BitVec 1) (e : Engine) : Except RejectCode Engine :=
  if e.dinCnt.val ≠ 14 then .error .badIvCount
  else .ok (e
    |>.putFrame 0 [0x1C, 0x00, 0x00, 0x80]
    |>.putFrame 4 (zeros 4)
    |>.putFrame 8 (le32 e.sid)
    |>.putFrame 12 (ivBytes e)
    |>.putFrame 26 [v.setWidth 8]
    |>.putFrame 27 [0x00]
    |>.finalize 28)

/-- The body of BUILD_BLOCK and BUILD_BLOCK_V, which differ in the function byte (R150, R155): BAD_ADDRESS is checked
before BAD_LENGTH (R182). -/
def Engine.buildBlock (fn : Byte) (addr : Half) (len : Byte) (e : Engine) : Except RejectCode Engine :=
  if addr < 0x1000 ∨ addr > 0x7FFF then .error .badAddress
  else if len > 0x80 then .error .badLength
  else .ok (e
    |>.putFrame 0 [0x8C, 0x00, 0x00, 0x81]
    |>.putFrame 4 (zeros 4)
    |>.putFrame 8 (le16 addr)
    |>.putFrame 10 [len]
    |>.putFrame 11 [fn]
    |>.putFrame 12 (blockBytes e)
    |>.finalize 140)

/-- The body of BUILD_COMPLETE (R160). -/
def Engine.buildComplete (fn : Byte) (e : Engine) : Except RejectCode Engine :=
  if fn ∉ [0x00, 0x01, 0x03] then .error .badFunction
  else .ok (e
    |>.putFrame 0 [0x88, 0x00, 0x00, 0x82]
    |>.putFrame 4 (zeros 4)
    |>.putFrame 8 (le32 e.sid)
    |>.putFrame 12 [fn]
    |>.putFrame 13 (versionBytes e)
    |>.putFrame 133 (zeros 3)
    |>.finalize 136)

/-- BUILD_BEGIN V (R145). -/
def execBuildBegin (v : BitVec 1) (s : State) : StepOutcome :=
  perform (Engine.build (Engine.buildBegin v)) s

/-- BUILD_BLOCK ADDR, LEN: function Program (R150, R87). -/
def execBuildBlock (addr : Half) (len : Byte) (s : State) : StepOutcome :=
  perform (Engine.build (Engine.buildBlock 0x00 addr len)) s

/-- BUILD_BLOCK_V ADDR, LEN: function Verify (R155, R87). -/
def execBuildBlockV (addr : Half) (len : Byte) (s : State) : StepOutcome :=
  perform (Engine.build (Engine.buildBlock 0x01 addr len)) s

/-- BUILD_COMPLETE FN (R160). -/
def execBuildComplete (fn : Byte) (s : State) : StepOutcome :=
  perform (Engine.build (Engine.buildComplete fn)) s

/-- FRAME_CLEAR: `discard_frame()` is its whole effect (R165). -/
def execFrameClear (s : State) : StepOutcome :=
  perform (Engine.command fun e => .ok e.discardFrame) s

end Sys2Proof.Machine
end

