-- ==== Sys2Proof/Machine/Staging.lean ====
section
/-! DEFINITION. The staging commands (41_staging). -/

namespace Sys2Proof.Machine

/-- DIN_CLEAR (R121). -/
def execDinClear (s : State) : StepOutcome :=
  perform (Engine.command fun e => .ok { e with din := Vector.replicate Config.dinCap 0x00, dinCnt := 0 }) s

/-- DIN_PUSH1 B0 (R123). -/
def execDinPush1 (b0 : Byte) (s : State) : StepOutcome :=
  perform (Engine.command (Engine.push [b0])) s

/-- DIN_PUSH2 B0, B1 (R124). -/
def execDinPush2 (b0 b1 : Byte) (s : State) : StepOutcome :=
  perform (Engine.command (Engine.push [b0, b1])) s

/-- DIN_PUSH3 B0, B1, B2 (R125). -/
def execDinPush3 (b0 b1 b2 : Byte) (s : State) : StepOutcome :=
  perform (Engine.command (Engine.push [b0, b1, b2])) s

/-- SID_LO IMM16: the high half is kept (R126). -/
def execSidLo (imm16 : Half) (s : State) : StepOutcome :=
  perform (Engine.command fun e => .ok { e with sid := (e.sid &&& 0xFFFF0000) ||| imm16.setWidth 32 }) s

/-- SID_HI IMM16: the low half is kept (R127). -/
def execSidHi (imm16 : Half) (s : State) : StepOutcome :=
  perform (Engine.command fun e => .ok { e with sid := (imm16.setWidth 32 <<< 16) ||| (e.sid &&& 0x0000FFFF) }) s

end Sys2Proof.Machine
end

