-- ==== Sys2Proof/Machine/Dispatch.lean ====
section
/-! DEFINITION. The meaning of each command: one arm per constructor of Instr, in the order of R75. -/

namespace Sys2Proof.Machine

def exec (i : Instr) (s : State) : Host.Outcome State Fault Refusal :=
  match i with
  | .nop => Sys2Proof.Machine.execNop s
  | .softReset => Sys2Proof.Machine.execSoftReset s
  | .errClear => Sys2Proof.Machine.execErrClear s
  | .crcInit => Sys2Proof.Machine.execCrcInit s
  | .crcByte b0 => Sys2Proof.Machine.execCrcByte b0 s
  | .crcDin => Sys2Proof.Machine.execCrcDin s
  | .dinClear => Sys2Proof.Machine.execDinClear s
  | .dinPush1 b0 => Sys2Proof.Machine.execDinPush1 b0 s
  | .dinPush2 b0 b1 => Sys2Proof.Machine.execDinPush2 b0 b1 s
  | .dinPush3 b0 b1 b2 => Sys2Proof.Machine.execDinPush3 b0 b1 b2 s
  | .sidLo imm16 => Sys2Proof.Machine.execSidLo imm16 s
  | .sidHi imm16 => Sys2Proof.Machine.execSidHi imm16 s
  | .buildBegin v => Sys2Proof.Machine.execBuildBegin v s
  | .buildBlock addr len => Sys2Proof.Machine.execBuildBlock addr len s
  | .buildBlockV addr len => Sys2Proof.Machine.execBuildBlockV addr len s
  | .buildComplete fn => Sys2Proof.Machine.execBuildComplete fn s
  | .frameClear => Sys2Proof.Machine.execFrameClear s

end Sys2Proof.Machine
end

