-- ==== Sys2Proof/Machine/Registers.lean ====
section
/-! DEFINITION. The register map of the window (R28 to R36) and what each register reads (R52). -/

namespace Sys2Proof.Machine

/-- The registers the host can read (R28). -/
inductive Register where
  | status
  | crcValue
  | sessionId
  | ident
  | frame (k : Fin 35)
  | din (k : Fin 32)
deriving DecidableEq, Repr

/-- What stands at a mapped offset: CMD, which is write-only, or a register, which is read-only (R28). -/
inductive Mapped where
  | cmd
  | reg (r : Register)
deriving DecidableEq, Repr

/-- The map of R28, by a 4-aligned offset; `none` is an unmapped offset (R36). -/
def registerAt (off : BitVec 10) : Option Mapped :=
  let n := off.toNat
  if n = 0x000 then some .cmd
  else if n = 0x004 then some (.reg .status)
  else if n = 0x008 then some (.reg .crcValue)
  else if n = 0x00C then some (.reg .sessionId)
  else if n = 0x010 then some (.reg .ident)
  else if h : 0x100 ≤ n ∧ n ≤ 0x188 then some (.reg (.frame ⟨(n - 0x100) / 4, by omega⟩))
  else if h : 0x200 ≤ n ∧ n ≤ 0x27C then some (.reg (.din ⟨(n - 0x200) / 4, by omega⟩))
  else none

/-- IDENT's constant: "CRF", revision 1 (R31). -/
def identWord : Word := 0x43524601

/-- The word a register reads (R30 to R35). -/
def readRegister (r : Register) (e : Engine) : Word :=
  match r with
  | .status => statusWord e
  | .crcValue => e.crc ^^^ crcFinalXor
  | .sessionId => e.sid
  | .ident => identWord
  | .frame k => pack32 e.fbuf (4 * k.val)
  | .din k => pack32 e.din (4 * k.val)

end Sys2Proof.Machine
end

