-- ==== Sys2Proof/Machine/Access.lean ====
section
/-! DEFINITION. Running a command word (R170), the host's accesses (R51 to R54, R186, R187) and reset (R200, R202). -/

namespace Sys2Proof.Machine

/-- `execute(w)` (R170). A decoded command is `exec`, in which a BUILD_* discards the frame first; a word that decodes to
none is rejected, after the discard if its opcode is a BUILD_* (R76, R77; log entry 10). -/
def execute (w : Word) (s : State) : StepOutcome :=
  match decode w with
  | .ok i => exec i s
  | .error (.illegalOpcode _) => perform (Engine.reject .illegalOpcode) s
  | .error (.reservedNonzero m) =>
    perform (fun e => (if m.isBuild then e.discardFrame else e).reject .reservedNonzero) s

/-- What an access that is no bus error does: it reads a register, or it gives the engine a command. -/
inductive Target where
  | read (r : Register)
  | command (w : Word)
deriving DecidableEq, Repr

/-- A single 32-bit access at a 4-aligned offset, the only kind the engine accepts (R51). -/
def WindowAccess.isWordAccess (a : WindowAccess) : Bool :=
  a.bytes == 4 && a.beats == 1 && a.off.toNat % 4 == 0

/-- What an access is for, or `none` where it is a bus error by one of the causes (a) to (d) of R54. -/
def target? (a : WindowAccess) : Option Target :=
  if a.isWordAccess then
    match registerAt a.off, a.kind with
    | some .cmd, .write w => some (.command w)
    | some .cmd, .read => none
    | some (.reg r), .read => some (.read r)
    | some (.reg _), .write _ => none
    | none, _ => none
  else none

/-- The engine's response, for the host to see. -/
def State.respond (r : Response) (s : State) : State := { s with response := some r }

/-- The response to a write that ran a command; the command's own effects are in the state already. -/
def answerWrite (o : StepOutcome) : StepOutcome :=
  match o with
  | .next s => .next (s.respond .writeDone)
  | .fault r => .fault r
  | .refused r => .refused r

/-- One access to the window. The bus-error checks come first (R187); a bus error changes no engine state (R186), a read
changes none either (R58), and a write to CMD executes its word (R53) and completes normally on the bus even where
the command is rejected (R181). -/
def performWindow (a : WindowAccess) (s : State) : StepOutcome :=
  match target? a with
  | none => .next (s.respond .busError)
  | some (.read r) => .next (s.respond (.readData (readRegister r s.engine)))
  | some (.command w) => answerWrite (execute w s)

/-- Where an access goes, with `BASE` "as an argument" (R9): an access at a bus address is the engine's if its address
lies in the window (R51), and `none` is an access that does not reach the engine. -/
def HostAccess.route (base : Nat) : HostAccess → Option WindowAccess
  | .window a => some a
  | .bus b =>
    if base ≤ b.addr ∧ b.addr < base + Config.windowSize then
      some { off := BitVec.ofNat 10 (b.addr - base), bytes := b.bytes, beats := b.beats, kind := b.kind }
    else none

/-- One host access (R57). An access that does not reach the engine gets no response from it (R50; log entry 3). -/
def performAccess (a : HostAccess) (s : State) : StepOutcome :=
  match a.route Config.base with
  | none => .next { s with response := none }
  | some w => performWindow w s

/-- Hardware reset, between accesses (R200, R202); the last response is forgotten (log entry 6). -/
def hardwareReset (s : State) : State := { s with engine := Engine.reset, response := none }

/-- A physical reset that overlaps an access (R202): a write's effects "are lost either way", a read "returns a value that
is not specified" (a free value); bus errors are as ever (R54: "exactly when"; log entry 6). -/
def performOverlapped (a : HostAccess) (s : State) : StepOutcome :=
  match a.route Config.base with
  | none => .next (hardwareReset s)
  | some w =>
    match target? w with
    | none => .next ((hardwareReset s).respond .busError)
    | some (.read _) =>
      .next { (hardwareReset s).respond (.readData (Config.overlappedRead s.overlapDraws)) with
        overlapDraws := s.overlapDraws + 1 }
    | some (.command _) => .next ((hardwareReset s).respond .writeDone)

/-- One event of the outside world, one step (R57, R202). -/
def performEvent (ev : HostEvent) (s : State) : StepOutcome :=
  match ev with
  | .access a => performAccess a s
  | .reset => .next (hardwareReset s)
  | .resetDuring a => performOverlapped a s

/-- The engine "performs a step only in response to a host access" (R50): the host's next one, and where there is none
yet it waits (R201; log entry 2). -/
def serveNext (s : State) : StepOutcome :=
  match s.accesses with
  | [] => .next s
  | ev :: rest => performEvent ev { s with accesses := rest }

/-- `HostRead(off)` (R12, R52). -/
def hostRead (off : BitVec 10) : HostEvent :=
  .access (.window { off := off, bytes := 4, beats := 1, kind := .read })

/-- `HostWrite(off, v)` (R12, R53). -/
def hostWrite (off : BitVec 10) (v : Word) : HostEvent :=
  .access (.window { off := off, bytes := 4, beats := 1, kind := .write v })

/-- `MemRead(addr, n)` (R12, R51). -/
def memRead (addr n : Nat) : HostEvent :=
  .access (.bus { addr := addr, bytes := n, beats := 1, kind := .read })

/-- `MemWrite(addr, n, v)` (R12, R51). -/
def memWrite (addr n : Nat) (v : Word) : HostEvent :=
  .access (.bus { addr := addr, bytes := n, beats := 1, kind := .write v })

/-- The host issues `ev` before anything else it still has to do. -/
def State.issueFirst (ev : HostEvent) (s : State) : State := { s with accesses := ev :: s.accesses }

/-- What the host's program sees of an access: a word, the completion of a write, or the platform's report of a bus
error. -/
inductive HostView where
  | value (w : Word)
  | done
  | reported (r : Config.BusErrorReport)
deriving DecidableEq, Repr

/-- What the host's program sees of a response, with `bus_error_report` as an argument (R186, D34): a platform that
ignores bus errors drops the write or answers a read with a word of its own. -/
def hostView (report : Config.BusErrorReport) (kind : AccessKind) (r : Response) : HostView :=
  match r with
  | .readData v => .value v
  | .writeDone => .done
  | .busError =>
    match report, kind with
    | .ignored v, .read => .value v
    | .ignored _, .write _ => .done
    | .hostException, _ => .reported .hostException
    | .other code, _ => .reported (.other code)

/-- What the host's program sees on this platform. -/
def platformView (kind : AccessKind) (r : Response) : HostView := hostView Config.busErrorReport kind r

/-- Commands issued one after another, each as `exec` gives it (R57): for stating what a sequence does, such as the
expansion of a pseudo-instruction (R81). -/
def execAll : List Instr → State → StepOutcome
  | [], s => .next s
  | i :: is, s =>
    match exec i s with
    | .next t => execAll is t
    | .fault r => .fault r
    | .refused r => .refused r

end Sys2Proof.Machine
end

