-- ==== Sys2Proof/Machine/Step.lean ====
section
/-! DEFINITION. The step: one host access, or one reset (R57, R202). -/

namespace Sys2Proof.Machine

/-- One step of the machine. -/
def step (s : State) : Host.Outcome State Fault Refusal := serveNext s

/-- The machine with command word `w` given to CMD by the host's very next access: the engine fetches nothing (R21), a
command comes to it from outside, in a `HostWrite(0x000, w)` (R29, R70; log entry 1). -/
def State.withFetchWord (s : State) (nbits w : Nat) : State :=
  s.issueFirst (hostWrite 0x000 (BitVec.ofNat 32 (w % 2 ^ nbits)))

end Sys2Proof.Machine
end

