-- ==== Sys2Proof/Machine/Assembler.lean ====
section
/-! DEFINITION. The assembler of R80 and R81: lines to commands. It stands in this folder only so that a later repair may
mend it; the machine does not use it. -/

namespace Sys2Proof.Machine

/-- "Its encoding is ... fields, placed as in rule R71" (R80): the command with the operands of its line. -/
def instrOfOperands (m : Mnemonic) (operands : List Nat) : Option Instr :=
  match m, operands with
  | .nop, [] => some .nop
  | .softReset, [] => some .softReset
  | .errClear, [] => some .errClear
  | .crcInit, [] => some .crcInit
  | .crcByte, [b0] => some (.crcByte (BitVec.ofNat 8 b0))
  | .crcDin, [] => some .crcDin
  | .dinClear, [] => some .dinClear
  | .dinPush1, [b0] => some (.dinPush1 (BitVec.ofNat 8 b0))
  | .dinPush2, [b0, b1] => some (.dinPush2 (BitVec.ofNat 8 b0) (BitVec.ofNat 8 b1))
  | .dinPush3, [b0, b1, b2] => some (.dinPush3 (BitVec.ofNat 8 b0) (BitVec.ofNat 8 b1) (BitVec.ofNat 8 b2))
  | .sidLo, [imm] => some (.sidLo (BitVec.ofNat 16 imm))
  | .sidHi, [imm] => some (.sidHi (BitVec.ofNat 16 imm))
  | .buildBegin, [v] => some (.buildBegin (BitVec.ofNat 1 v))
  | .buildBlock, [addr, len] => some (.buildBlock (BitVec.ofNat 16 addr) (BitVec.ofNat 8 len))
  | .buildBlockV, [addr, len] => some (.buildBlockV (BitVec.ofNat 16 addr) (BitVec.ofNat 8 len))
  | .buildComplete, [fn] => some (.buildComplete (BitVec.ofNat 8 fn))
  | .frameClear, [] => some .frameClear
  | _, _ => none

/-- The operands of a command, as numbers, in the order of its line (R80). -/
def operandsOf : Instr → List Nat
  | .nop => []
  | .softReset => []
  | .errClear => []
  | .crcInit => []
  | .crcByte b0 => [b0.toNat]
  | .crcDin => []
  | .dinClear => []
  | .dinPush1 b0 => [b0.toNat]
  | .dinPush2 b0 b1 => [b0.toNat, b1.toNat]
  | .dinPush3 b0 b1 b2 => [b0.toNat, b1.toNat, b2.toNat]
  | .sidLo imm16 => [imm16.toNat]
  | .sidHi imm16 => [imm16.toNat]
  | .buildBegin v => [v.toNat]
  | .buildBlock addr len => [addr.toNat, len.toNat]
  | .buildBlockV addr len => [addr.toNat, len.toNat]
  | .buildComplete fn => [fn.toNat]
  | .frameClear => []

/-! The expansions of R81. -/

/-- The pushes of DIN_LOAD: three bytes at a time, then the one or two that are left. -/
def pushAll : List Byte → List Instr
  | [] => []
  | [b0] => [.dinPush1 b0]
  | [b0, b1] => [.dinPush2 b0 b1]
  | b0 :: b1 :: b2 :: rest => .dinPush3 b0 b1 b2 :: pushAll rest

/-- `DIN_LOAD b0, ..., b(n-1)`. -/
def dinLoad (bytes : List Byte) : List Instr := .dinClear :: pushAll bytes

/-- `SID_SET imm32`. -/
def sidSet (imm32 : Word) : List Instr :=
  [.sidLo (imm32.extractLsb' 0 16), .sidHi (imm32.extractLsb' 16 16)]

/-- `CRC_OF b0, ..., b(n-1)`. -/
def crcOf (bytes : List Byte) : List Instr := .crcInit :: dinLoad bytes ++ [.crcDin]

/-- `BEGIN sid, iv0, ..., iv13, v`. -/
def beginSeq (sid : Word) (iv : List Byte) (v : BitVec 1) : List Instr :=
  sidSet sid ++ dinLoad iv ++ [.buildBegin v]

/-- `BLOCK addr, len, verify, d0, ..., d(n-1)`. -/
def blockSeq (addr : Half) (len : Byte) (verify : BitVec 1) (data : List Byte) : List Instr :=
  dinLoad data ++ [if verify = 1 then .buildBlockV addr len else .buildBlock addr len]

/-- `COMPLETE fn, c0, ..., c(n-1)`. -/
def completeSeq (fn : Byte) (version : List Byte) : List Instr :=
  dinLoad version ++ [.buildComplete fn]

/-- Numbers that fit a byte each, as bytes. -/
def asBytes (xs : List Nat) : List Byte := xs.map (BitVec.ofNat 8)

/-- The expansion of a pseudo-instruction with operands that fit (R81). -/
def expandPseudo (p : Pseudo) (operands : List Nat) : Option (List Instr) :=
  match p, operands with
  | .sidSet, [imm] => some (sidSet (BitVec.ofNat 32 imm))
  | .sidSet, _ => none
  | .dinLoad, bytes => some (dinLoad (asBytes bytes))
  | .crcOf, bytes => some (crcOf (asBytes bytes))
  | .beginFrame, sid :: rest =>
    some (beginSeq (BitVec.ofNat 32 sid) (asBytes (rest.take 14)) (BitVec.ofNat 1 (rest.getD 14 0)))
  | .beginFrame, [] => none
  | .block, addr :: len :: verify :: data =>
    some (blockSeq (BitVec.ofNat 16 addr) (BitVec.ofNat 8 len) (BitVec.ofNat 1 verify) (asBytes data))
  | .block, _ => none
  | .complete, fn :: version => some (completeSeq (BitVec.ofNat 8 fn) (asBytes version))
  | .complete, [] => none

/-- The commands of a line, or `none`, "an assembly error, never truncated" (R80). -/
def assemble (l : AsmLine) : Option (List Instr) :=
  if l.wellFormed then
    match l.op with
    | .command m => (instrOfOperands m l.operands).map fun i => [i]
    | .pseudo p => expandPseudo p l.operands
  else none

/-! Lines as text (R80). -/

/-- The mnemonics of R75 as written, "in upper case" (R80). -/
def mnemonicName : Mnemonic → String
  | .nop => "NOP"
  | .softReset => "SOFT_RESET"
  | .errClear => "ERR_CLEAR"
  | .crcInit => "CRC_INIT"
  | .crcByte => "CRC_BYTE"
  | .crcDin => "CRC_DIN"
  | .dinClear => "DIN_CLEAR"
  | .dinPush1 => "DIN_PUSH1"
  | .dinPush2 => "DIN_PUSH2"
  | .dinPush3 => "DIN_PUSH3"
  | .sidLo => "SID_LO"
  | .sidHi => "SID_HI"
  | .buildBegin => "BUILD_BEGIN"
  | .buildBlock => "BUILD_BLOCK"
  | .buildBlockV => "BUILD_BLOCK_V"
  | .buildComplete => "BUILD_COMPLETE"
  | .frameClear => "FRAME_CLEAR"

/-- The names of the pseudo-instructions (R81). -/
def pseudoName : Pseudo → String
  | .sidSet => "SID_SET"
  | .dinLoad => "DIN_LOAD"
  | .crcOf => "CRC_OF"
  | .beginFrame => "BEGIN"
  | .block => "BLOCK"
  | .complete => "COMPLETE"

/-- What a line's first word names. -/
def opOfName? (name : List Char) : Option AsmOp :=
  match Mnemonic.all.find? (fun m => (mnemonicName m).toList == name) with
  | some m => some (.command m)
  | none =>
    ([.sidSet, .dinLoad, .crcOf, .beginFrame, .block, .complete].find? fun p => (pseudoName p).toList == name).map
      AsmOp.pseudo

/-- The value of a digit, in the case of either letter. -/
def digitValue (c : Char) : Option Nat :=
  if '0' ≤ c ∧ c ≤ '9' then some (c.toNat - '0'.toNat)
  else if 'a' ≤ c ∧ c ≤ 'f' then some (c.toNat - 'a'.toNat + 10)
  else if 'A' ≤ c ∧ c ≤ 'F' then some (c.toNat - 'A'.toNat + 10)
  else none

/-- The digits of a number in a base, after the value `acc` of those to their left. -/
def numberFrom (base acc : Nat) : List Char → Option Nat
  | [] => some acc
  | c :: cs =>
    match digitValue c with
    | some d => if d < base then numberFrom base (acc * base + d) cs else none
    | none => none

/-- An operand as text: "unsigned numbers, decimal or `0x` hex" (R80). -/
def parseNumber : List Char → Option Nat
  | [] => none
  | '0' :: 'x' :: [] => none
  | '0' :: 'x' :: c :: cs => numberFrom 16 0 (c :: cs)
  | c :: cs => numberFrom 10 0 (c :: cs)

/-- Spaces at both ends dropped. -/
def trimSpaces (cs : List Char) : List Char :=
  ((cs.dropWhile (· == ' ')).reverse.dropWhile (· == ' ')).reverse

/-- The pieces of a text between separators. -/
def splitAt (sep : Char) : List Char → List (List Char)
  | [] => [[]]
  | c :: cs =>
    if c = sep then [] :: splitAt sep cs
    else
      match splitAt sep cs with
      | [] => [[c]]
      | piece :: pieces => (c :: piece) :: pieces

/-- Every piece as a number, or `none` if one is none. -/
def parseNumbers : List (List Char) → Option (List Nat)
  | [] => some []
  | p :: ps =>
    match parseNumber (trimSpaces p), parseNumbers ps with
    | some n, some ns => some (n :: ns)
    | _, _ => none

/-- A line as text: the name, then the operands, "comma-separated" (R80; spaces: log entry 7). -/
def parseLine (line : String) : Option AsmLine :=
  let text := trimSpaces line.toList
  let rest := trimSpaces (text.dropWhile (· != ' '))
  match opOfName? (text.takeWhile (· != ' ')), (if rest = [] then some [] else parseNumbers (splitAt ',' rest)) with
  | some op, some operands => some { op := op, operands := operands }
  | _, _ => none

/-- The command words of a line of text (R80, R81). -/
def assembleText (line : String) : Option (List Word) :=
  match parseLine line with
  | some l => (assemble l).map (List.map encode)
  | none => none

end Sys2Proof.Machine
end

