-- ==== Sys2Proof/Safety.lean ====
section
/-! DEFINITION. The terms that claims about the machine use: the invariants of a safe run (R25 to R27), the frames as the
wire formats lay them out (R82 to R85), the opcode map and the register map as the spec tabulates them (R75, R28, R54),
commands performed completely (R183), and the bytes a streaming CRC has been fed (R103). -/

namespace Sys2Proof.Machine

/-! The frame formats, as byte sequences. -/

/-- A frame of message id `id` around its bytes from offset 8 on (R82, R86): the length, two zeros, the id, and the CRC of
"everything after the CRC field itself". -/
def frameOf (id : Byte) (body : List Byte) : List Byte :=
  [BitVec.ofNat 8 (body.length + 8), 0x00, 0x00, id] ++ le32 (crc32 body) ++ body

/-- The Begin frame (R83). -/
def beginFrame (sid : Word) (iv : List Byte) (fn : Byte) : List Byte :=
  frameOf 0x80 (le32 sid ++ iv ++ [fn, 0x00])

/-- The Block frame (R84). -/
def blockFrame (addr : Half) (len fn : Byte) (payload : List Byte) : List Byte :=
  frameOf 0x81 (le16 addr ++ [len, fn] ++ payload)

/-- The Complete frame (R85). -/
def completeFrame (sid : Word) (fn : Byte) (version : List Byte) : List Byte :=
  frameOf 0x82 (le32 sid ++ [fn] ++ version ++ [0x00, 0x00, 0x00])

/-- The frame buffer holds `frame` from byte 0 on, and zeros after it (R26). -/
def holdsFrame (fbuf : Vector Byte Config.fbufSize) (frame : List Byte) : Prop :=
  fbuf.toList = frame ++ zeros (Config.fbufSize - frame.length)

/-! The invariants. -/

/-- "for every `i` with `din_cnt <= i < 128`, `din[i] = 0x00`" (R25). -/
def Engine.StagingClean (e : Engine) : Prop :=
  ∀ i : Fin Config.dinCap, e.dinCnt.val ≤ i.val → byteAt e.din i.val = 0x00

/-- The frame buffer holds one of the three frames, with field values a BUILD accepts (R83 to R85, R87). -/
def Engine.FrameFormed (e : Engine) : Prop :=
  (∃ sid iv fn, iv.length = 14 ∧ (fn = 0x00 ∨ fn = 0x01) ∧ holdsFrame e.fbuf (beginFrame sid iv fn)) ∨
  (∃ addr len fn payload, 0x1000 ≤ addr ∧ addr ≤ 0x7FFF ∧ len ≤ 0x80 ∧ (fn = 0x00 ∨ fn = 0x01) ∧
    payload.length = 128 ∧ holdsFrame e.fbuf (blockFrame addr len fn payload)) ∨
  (∃ sid fn version, (fn = 0x00 ∨ fn = 0x01 ∨ fn = 0x03) ∧ version.length = 120 ∧
    holdsFrame e.fbuf (completeFrame sid fn version))

/-- R26: without a frame the buffer is all zero, and with one it holds that frame and zeros after it. -/
def Engine.FrameClean (e : Engine) : Prop :=
  (e.fvalid = false → e.fbuf = Vector.replicate Config.fbufSize 0x00) ∧ (e.fvalid = true → e.FrameFormed)

/-- The rejection record: "`errcode` is 0x00 if and only if `err = 0`" (R27), codes from 0x08 on "are never produced"
(R180), and a rejected last command has been recorded (R181). -/
def Engine.RecordClean (e : Engine) : Prop :=
  (e.errcode = 0x00 ↔ e.err = false) ∧ e.errcode ≤ 0x07 ∧ (e.lastRej = true → e.err = true)

/-- A safe state: all three. -/
def State.Safe (s : State) : Prop :=
  s.engine.StagingClean ∧ s.engine.FrameClean ∧ s.engine.RecordClean

/-! The tables of the spec. -/

/-- A row of R75: the command, its format, and the `match` and `mask` of its words. -/
structure OpcodeRow where
  mnemonic : Mnemonic
  format : Format
  matchWord : Word
  mask : Word
deriving DecidableEq, Repr

/-- The opcode map as R75 tabulates it. -/
def opcodeMap : List OpcodeRow :=
  [
   ⟨.nop, .f0, 0x00000000, 0xFFFFFFFF⟩,
   ⟨.softReset, .f0, 0x01000000, 0xFFFFFFFF⟩,
   ⟨.errClear, .f0, 0x02000000, 0xFFFFFFFF⟩,
   ⟨.crcInit, .f0, 0x10000000, 0xFFFFFFFF⟩,
   ⟨.crcByte, .fb, 0x11000000, 0xFFFFFF00⟩,
   ⟨.crcDin, .f0, 0x12000000, 0xFFFFFFFF⟩,
   ⟨.dinClear, .f0, 0x20000000, 0xFFFFFFFF⟩,
   ⟨.dinPush1, .fb, 0x21000000, 0xFFFFFF00⟩,
   ⟨.dinPush2, .fb2, 0x22000000, 0xFFFF0000⟩] ++
  [
   ⟨.dinPush3, .fb3, 0x23000000, 0xFF000000⟩,
   ⟨.sidLo, .fh, 0x30000000, 0xFFFF0000⟩,
   ⟨.sidHi, .fh, 0x31000000, 0xFFFF0000⟩,
   ⟨.buildBegin, .fv, 0x40000000, 0xFFFFFFFE⟩,
   ⟨.buildBlock, .fblk, 0x41000000, 0xFF000000⟩,
   ⟨.buildBlockV, .fblk, 0x42000000, 0xFF000000⟩,
   ⟨.buildComplete, .ffn, 0x43000000, 0xFFFFFF00⟩,
   ⟨.frameClear, .f0, 0x4F000000, 0xFFFFFFFF⟩]

/-- The fields of each format as R71 tabulates them: the lowest bit and the width, in the order of the operands. -/
def fieldPlaces : Format → List (Nat × Nat)
  | .f0 => []
  | .fb => [(0, 8)]
  | .fb2 => [(0, 8), (8, 8)]
  | .fb3 => [(0, 8), (8, 8), (16, 8)]
  | .fh => [(0, 16)]
  | .fv => [(0, 1)]
  | .fblk => [(0, 16), (16, 8)]
  | .ffn => [(0, 8)]

/-- The assigned opcodes as R75 lists them. -/
def assignedOpcodes : List Byte :=
  [0x00, 0x01, 0x02, 0x10, 0x11, 0x12, 0x20, 0x21, 0x22, 0x23, 0x30, 0x31, 0x40, 0x41, 0x42, 0x43, 0x4F]

/-- The BUILD_* opcodes (R75). -/
def buildOpcodes : List Byte := [0x40, 0x41, 0x42, 0x43]

/-- The unmapped ranges of R28, by offset. -/
def unmappedOffset (n : Nat) : Prop :=
  (0x014 ≤ n ∧ n ≤ 0x0FC) ∨ (0x18C ≤ n ∧ n ≤ 0x1FC) ∨ (0x280 ≤ n ∧ n ≤ 0x3FC)

/-- The causes of a bus error, as R54 lists them. -/
def isBusError (a : WindowAccess) : Prop :=
  ¬ (a.bytes = 4 ∧ a.beats = 1 ∧ a.off.toNat % 4 = 0) ∨
  (a.kind = .read ∧ a.off = 0x000) ∨
  ((∃ v, a.kind = .write v) ∧ a.off ≠ 0x000) ∨
  unmappedOffset a.off.toNat

/-! A command word as the host gives it. -/

/-- Every word of opcode `op` with a 1 in a reserved bit of its format is rejected with RESERVED_NONZERO, the engine being
`before` when the rejection is recorded (R77). -/
def ReservedRejected (op : Byte) (reserved : Word) (before : Engine → Engine) : Prop :=
  ∀ (w : Word) (s : State), opField w = op → w &&& reserved ≠ 0 →
    execute w s = .next { s with engine := (before s.engine).reject .reservedNonzero }

/-- The state a BUILD_* that fails a check leaves: no frame, the rejection recorded, all else as it was (R140, R181). -/
def rejectedBuild (code : RejectCode) (s : State) : State :=
  { s with engine := Engine.reject code { s.engine with fbuf := Vector.replicate 140 0x00, fvalid := false } }

/-! A command performed completely (R183), element by element, as the spec's pseudocode gives it. -/

/-- `bytes` stand in `din` from `din_cnt` on, after those staged before and before the rest of the buffer, and are counted
(R122). -/
def Appended (bytes : List Byte) (e t : Engine) : Prop :=
  ∃ (din : Vector Byte Config.dinCap) (dinCnt : Fin (Config.dinCap + 1)),
    t = { e with din := din, dinCnt := dinCnt, lastRej := false } ∧
    dinCnt.val = e.dinCnt.val + bytes.length ∧
    din.toList = e.din.toList.take e.dinCnt.val ++ bytes ++ e.din.toList.drop (e.dinCnt.val + bytes.length)

/-- `frame` is in the frame buffer, and FVALID says so (R142). -/
def Framed (frame : List Byte) (e t : Engine) : Prop :=
  ∃ fbuf : Vector Byte Config.fbufSize,
    t = { e with fbuf := fbuf, fvalid := true, lastRej := false } ∧ holdsFrame fbuf frame

/-- `t` is what a command accepted in `e` leaves when all of its effect, and no more, is performed. -/
def Performed (i : Instr) (e t : Engine) : Prop :=
  match i with
  | .nop => t = { e with lastRej := false }
  | .softReset => t = Engine.reset
  | .errClear => t = { e with err := false, errcode := 0x00, lastRej := false }
  | .crcInit => t = { e with crc := 0xFFFFFFFF, lastRej := false }
  | .crcByte b0 => t = { e with crc := crcUpdate e.crc b0, lastRej := false }
  | .crcDin => t = { e with crc := (e.din.toList.take e.dinCnt.val).foldl crcUpdate e.crc, lastRej := false }
  | .dinClear => t = { e with din := Vector.replicate 128 0x00, dinCnt := 0, lastRej := false }
  | .dinPush1 b0 => Appended [b0] e t
  | .dinPush2 b0 b1 => Appended [b0, b1] e t
  | .dinPush3 b0 b1 b2 => Appended [b0, b1, b2] e t
  | .sidLo imm16 => ∃ sid, t = { e with sid := sid, lastRej := false } ∧
    sid.extractLsb' 0 16 = imm16 ∧ sid.extractLsb' 16 16 = e.sid.extractLsb' 16 16
  | .sidHi imm16 => ∃ sid, t = { e with sid := sid, lastRej := false } ∧
    sid.extractLsb' 16 16 = imm16 ∧ sid.extractLsb' 0 16 = e.sid.extractLsb' 0 16
  | .buildBegin v => Framed (beginFrame e.sid (e.din.toList.take 14) (v.setWidth 8)) e t
  | .buildBlock addr len => Framed (blockFrame addr len 0x00 e.din.toList) e t
  | .buildBlockV addr len => Framed (blockFrame addr len 0x01 e.din.toList) e t
  | .buildComplete fn => Framed (completeFrame e.sid fn (e.din.toList.take 120)) e t
  | .frameClear => t = { e with fbuf := Vector.replicate 140 0x00, fvalid := false, lastRej := false }

/-! The streaming CRC. -/

/-- The bytes fed since the last CRC_INIT or reset, after a command (R103). -/
def fedAfterCommand (i : Instr) (e : Engine) (fed : List Byte) : List Byte :=
  match i with
  | .softReset => []
  | .crcInit => []
  | .crcByte b0 => fed ++ [b0]
  | .crcDin => fed ++ stagedBytes e
  | .nop => fed
  | .errClear => fed
  | .dinClear => fed
  | .dinPush1 _ => fed
  | .dinPush2 _ _ => fed
  | .dinPush3 _ _ _ => fed
  | .sidLo _ => fed
  | .sidHi _ => fed
  | .buildBegin _ => fed
  | .buildBlock _ _ => fed
  | .buildBlockV _ _ => fed
  | .buildComplete _ => fed
  | .frameClear => fed

/-- The word an event writes to CMD, if it is a write to CMD (R53). -/
def commandWord (ev : HostEvent) : Option Word :=
  match ev with
  | .access a =>
    match (a.route Config.base).bind target? with
    | some (.command w) => some w
    | some (.read _) => none
    | none => none
  | .reset => none
  | .resetDuring _ => none

/-- The command an event gives the engine, if its word is a legal one (R170). -/
def commandOf (ev : HostEvent) : Option Instr :=
  (commandWord ev).bind fun w => (decode w).toOption

/-- Whether an event resets the engine from outside (R200, R202). -/
def isHardwareReset (ev : HostEvent) : Bool :=
  match ev with
  | .access _ => false
  | .reset => true
  | .resetDuring _ => true

/-- An event with which no command and no reset intervenes (R58): a read, a bus error, an access elsewhere. -/
def issuesNoCommand (ev : HostEvent) : Prop :=
  isHardwareReset ev = false ∧ commandWord ev = none

/-- The bytes fed since the last CRC_INIT or reset, after an event. -/
def fedAfterEvent (ev : HostEvent) (e : Engine) (fed : List Byte) : List Byte :=
  if isHardwareReset ev then []
  else
    match commandOf ev with
    | some i => fedAfterCommand i e fed
    | none => fed

/-- The bytes fed since the last CRC_INIT or reset, after the next step. -/
def fedAfterStep (s : State) (fed : List Byte) : List Byte :=
  match s.accesses with
  | [] => fed
  | ev :: _ => fedAfterEvent ev s.engine fed

end Sys2Proof.Machine
end

