-- ==== Sys2Proof/Certificates/Slice0/Obligations.lean ====
section
/-! DEFINITION. The statements for the provers, one definition each; OBLIGATIONS.json lists them. -/

open Sys2Proof Sys2Proof.Machine

/-! ## The encoding -/

/-- Decoding the word of an instruction gives the instruction, with every operand at every value (R70, R71, R80). -/
def Obligations.DecodeOfEncodeIsTheInstruction : Prop :=
  ∀ i : Instr, decode (encode i) = .ok i

/-- A word that decodes to an instruction is that instruction's only word: no bit of it is ignored (R77). -/
def Obligations.EncodeOfDecodeIsTheWord : Prop :=
  ∀ (w : Word) (i : Instr), decode w = .ok i → encode i = w

/-- R75: the opcode map. Its `match` and `mask` are made as it says, a word decodes to a row's command exactly when
`(w AND mask) = match`, every command has a row, and the BUILD_* commands are those of opcodes 0x40 to 0x43. -/
def Obligations.LegalWordsAreThoseOfTheOpcodeMap : Prop :=
  (∀ row ∈ opcodeMap, row.mnemonic.format = row.format ∧
    row.matchWord = row.mnemonic.opcode.setWidth 32 <<< 24 ∧ row.mask = 0xFF000000 ||| row.format.reservedMask ∧
    ∀ w : Word, w &&& row.mask = row.matchWord ↔ ∃ i, decode w = .ok i ∧ i.mnemonic = row.mnemonic) ∧
  (∀ m : Mnemonic, ∃ row ∈ opcodeMap, row.mnemonic = m) ∧
  opcodeMap.map (fun row => row.mnemonic.opcode) = assignedOpcodes ∧
  (∀ m : Mnemonic, m.isBuild = true ↔ m.opcode ∈ buildOpcodes)

/-- R71 and R72: each operand of a decoded word is the number its bits are, at the places of its format, and a bit of
31:0 below the opcode is reserved exactly where no field of the format stands. -/
def Obligations.OperandsAreTheFieldsOfTheirFormat : Prop :=
  (∀ (w : Word) (i : Instr), decode w = .ok i →
    operandsOf i = (fieldPlaces i.mnemonic.format).map fun p => w.toNat / 2 ^ p.1 % 2 ^ p.2) ∧
  (∀ (f : Format) (k : Nat), f.reservedMask.getLsbD k = true ↔
    k < 24 ∧ ∀ p ∈ fieldPlaces f, k < p.1 ∨ p.1 + p.2 ≤ k)

/-- R76: an unassigned opcode, whatever its operand bits, is rejected with ILLEGAL_OPCODE, "It has no other effect", and
there are 239 of them. -/
def Obligations.UnassignedOpcodesAreRejected : Prop :=
  (∀ (w : Word) (s : State), opField w ∉ assignedOpcodes →
    execute w s = .next { s with engine := s.engine.reject .illegalOpcode }) ∧
  ((List.range 256).filter fun n => (mnemonicOf? (BitVec.ofNat 8 n)).isNone).length = 239

/-- R77 and R78: a reserved bit that is 1 rejects the word with RESERVED_NONZERO, after the discard of the frame if the
opcode is a BUILD_*; and NOP is the word 0 only. -/
def Obligations.ReservedBitsAreRejected : Prop :=
  (∀ (m : Mnemonic) (w : Word) (s : State), opField w = m.opcode → w &&& m.format.reservedMask ≠ 0 →
    execute w s = .next { s with engine :=
      (if m.opcode ∈ buildOpcodes then s.engine.discardFrame else s.engine).reject .reservedNonzero }) ∧
  (∀ w : Word, decode w = .ok .nop ↔ w = 0x00000000) ∧
  (∀ w : Word, opField w = 0x00 → w ≠ 0x00000000 → decode w = .error (.reservedNonzero .nop))

/-- The words that R80 and 95_test_vectors write out decode to the commands they stand for. -/
def Obligations.WrittenOutWordsDecode : Prop :=
  decode 0x00000000 = .ok .nop ∧ decode 0x01000000 = .ok .softReset ∧ decode 0x02000000 = .ok .errClear ∧
  decode 0x10000000 = .ok .crcInit ∧ decode 0x11000031 = .ok (.crcByte 0x31) ∧ decode 0x12000000 = .ok .crcDin ∧
  decode 0x23030201 = .ok (.dinPush3 0x01 0x02 0x03) ∧ decode 0x30005678 = .ok (.sidLo 0x5678) ∧
  decode 0x40000001 = .ok (.buildBegin 1) ∧ decode 0x41101000 = .ok (.buildBlock 0x1000 0x10) ∧
  decode 0x43000003 = .ok (.buildComplete 3) ∧ decode 0x4F000000 = .ok .frameClear

/-- R80, R81: a line assembles exactly when it is well formed, and exactly when its numbers are the values of operands that
the command or the pseudo-instruction takes; it then gives that command, or the expansion, with those operands, "never
truncated". DIN_LOAD's expansion is spelled out as R81 counts it. R81 bounds DIN_LOAD alone by 128 bytes; that CRC_OF, BLOCK
and COMPLETE, which expand through it, do not assemble with more is the model's deduction (log entry 7), and the clauses
for these three and the first clause, through `wellFormed`, rest on it. -/
def Obligations.AssemblyNeverTruncates : Prop :=
  (∀ l : AsmLine, (assemble l).isSome = l.wellFormed) ∧
  (∀ (m : Mnemonic) (operands : List Nat) (is : List Instr), assemble ⟨.command m, operands⟩ = some is ↔
    ∃ i, is = [i] ∧ i.mnemonic = m ∧ operandsOf i = operands) ∧
  (∀ (operands : List Nat) (is : List Instr), assemble ⟨.pseudo .sidSet, operands⟩ = some is ↔
    ∃ imm32 : Word, operands = [imm32.toNat] ∧
      is = [.sidLo (imm32.extractLsb' 0 16), .sidHi (imm32.extractLsb' 16 16)]) ∧
  (∀ (operands : List Nat) (is : List Instr), assemble ⟨.pseudo .dinLoad, operands⟩ = some is ↔
    ∃ bytes : List Byte, bytes.length ≤ 128 ∧ operands = bytes.map BitVec.toNat ∧ is = dinLoad bytes) ∧
  (∀ (operands : List Nat) (is : List Instr), assemble ⟨.pseudo .crcOf, operands⟩ = some is ↔
    ∃ bytes : List Byte, bytes.length ≤ 128 ∧ operands = bytes.map BitVec.toNat ∧
      is = [.crcInit] ++ dinLoad bytes ++ [.crcDin]) ∧
  (∀ (operands : List Nat) (is : List Instr), assemble ⟨.pseudo .beginFrame, operands⟩ = some is ↔
    ∃ (sid : Word) (iv : List Byte) (v : BitVec 1), iv.length = 14 ∧
      operands = [sid.toNat] ++ iv.map BitVec.toNat ++ [v.toNat] ∧
      is = [.sidLo (sid.extractLsb' 0 16), .sidHi (sid.extractLsb' 16 16)] ++ dinLoad iv ++ [.buildBegin v]) ∧
  (∀ (operands : List Nat) (is : List Instr), assemble ⟨.pseudo .block, operands⟩ = some is ↔
    ∃ (addr : Half) (len : Byte) (verify : BitVec 1) (data : List Byte), data.length ≤ 128 ∧
      operands = [addr.toNat, len.toNat, verify.toNat] ++ data.map BitVec.toNat ∧
      is = dinLoad data ++ [if verify = 0 then .buildBlock addr len else .buildBlockV addr len]) ∧
  (∀ (operands : List Nat) (is : List Instr), assemble ⟨.pseudo .complete, operands⟩ = some is ↔
    ∃ (fn : Byte) (version : List Byte), version.length ≤ 128 ∧
      operands = [fn.toNat] ++ version.map BitVec.toNat ∧ is = dinLoad version ++ [.buildComplete fn]) ∧
  (∀ bytes : List Byte, let b := fun k => bytes.getD k 0x00
    dinLoad bytes = [.dinClear] ++
      ((List.range (bytes.length / 3)).map fun k => .dinPush3 (b (3 * k)) (b (3 * k + 1)) (b (3 * k + 2))) ++
      (if bytes.length % 3 = 1 then [.dinPush1 (b (bytes.length - 1))]
       else if bytes.length % 3 = 2 then [.dinPush2 (b (bytes.length - 2)) (b (bytes.length - 1))]
       else []))

/-! ## Running a command -/

/-- R29, R53, R170: when the host's next access writes a word to CMD that decodes to `i`, a step is `exec i`, the access
being taken from the host's list and answered as a completed write. -/
def Obligations.StepRunsTheDecodedCommand : Prop :=
  ∀ (s : State) (rest : List HostEvent) (w : Word) (i : Instr),
    s.accesses = hostWrite 0x000 w :: rest → decode w = .ok i →
    ∃ t, exec i { s with accesses := rest } = .next t ∧ step s = .next { t with response := some .writeDone }

/-- R183: a command is performed completely, every element having the value its rule gives it, or it changes nothing but the
rejection record and, for a BUILD_* opcode, the frame that it discarded; the host's side is as it was. -/
def Obligations.CommandsAreAcceptedOrRejectedPrecisely : Prop :=
  ∀ (w : Word) (s : State), ∃ t, execute w s = .next t ∧
    t.accesses = s.accesses ∧ t.response = s.response ∧ t.overlapDraws = s.overlapDraws ∧
    ((∃ i, decode w = .ok i ∧ Performed i s.engine t.engine) ∨ ∃ code : RejectCode, t.engine =
      (if opField w ∈ buildOpcodes then s.engine.discardFrame else s.engine).reject code)

/-- R181: what a rejection records, the first code being kept; a rejected command leaves this record, and the discard of a
BUILD_* before it, and nothing else; and the write that carried a command, rejected or not, "completes normally on the
bus". -/
def Obligations.RejectionRecordsTheFirstCode : Prop :=
  (∀ (code : RejectCode) (e : Engine), e.reject code =
    { e with lastRej := true, err := true, errcode := if e.err = true then e.errcode else code.code }) ∧
  (∀ (w : Word) (s t : State), execute w s = .next t → t.engine.lastRej = true → ∃ code : RejectCode,
    t = { s with engine := (if opField w ∈ buildOpcodes then s.engine.discardFrame else s.engine).reject code }) ∧
  (∀ (s : State) (rest : List HostEvent) (w : Word), s.accesses = hostWrite 0x000 w :: rest →
    ∃ t u, execute w { s with accesses := rest } = .next t ∧ step s = .next u ∧ u.engine = t.engine ∧
      u.response = some .writeDone ∧ u.accesses = rest)

/-- R180: the codes, and which commands raise which. -/
def Obligations.RejectionCodesAndTheirCauses : Prop :=
  (RejectCode.illegalOpcode.code = 0x01 ∧ RejectCode.reservedNonzero.code = 0x02 ∧ RejectCode.dinOverflow.code = 0x03 ∧
    RejectCode.badAddress.code = 0x04 ∧ RejectCode.badLength.code = 0x05 ∧ RejectCode.badIvCount.code = 0x06 ∧
    RejectCode.badFunction.code = 0x07) ∧
  (∀ (i : Instr) (s t : State), exec i s = .next t → t.engine.lastRej = true → s.engine.err = false →
    (i.mnemonic ∈ [.dinPush1, .dinPush2, .dinPush3] ∧ t.engine.errcode = 0x03) ∨
    (i.mnemonic ∈ [.buildBlock, .buildBlockV] ∧ (t.engine.errcode = 0x04 ∨ t.engine.errcode = 0x05)) ∨
    (i.mnemonic = .buildBegin ∧ t.engine.errcode = 0x06) ∨
    (i.mnemonic = .buildComplete ∧ t.engine.errcode = 0x07)) ∧
  (∀ (w : Word) (m : Mnemonic), decode w = .error (.reservedNonzero m) →
    m ≠ .dinPush3 ∧ m ≠ .buildBlock ∧ m ≠ .buildBlockV)

/-- R182: of several failed checks the first in the order of R170 is recorded. -/
def Obligations.FirstFailedCheckIsRecorded : Prop :=
  (∀ (w : Word) (s t : State), s.engine.err = false → opField w ∉ assignedOpcodes → execute w s = .next t →
    t.engine.errcode = 0x01) ∧
  (∀ (m : Mnemonic) (w : Word) (s t : State), s.engine.err = false → opField w = m.opcode →
    w &&& m.format.reservedMask ≠ 0 → execute w s = .next t → t.engine.errcode = 0x02) ∧
  (∀ (i : Instr) (addr : Half) (len : Byte) (s t : State), i = .buildBlock addr len ∨ i = .buildBlockV addr len →
    s.engine.err = false → exec i s = .next t →
    (addr < 0x1000 ∨ 0x7FFF < addr → t.engine.errcode = 0x04) ∧
    (0x1000 ≤ addr → addr ≤ 0x7FFF → 0x80 < len → t.engine.errcode = 0x05)) ∧
  (∀ (v : BitVec 1) (s t : State), s.engine.err = false → s.engine.dinCnt.val ≠ 14 →
    exec (.buildBegin v) s = .next t → t.engine.errcode = 0x06) ∧
  (∀ (fn : Byte) (s t : State), s.engine.err = false → fn ≠ 0x00 → fn ≠ 0x01 → fn ≠ 0x03 →
    exec (.buildComplete fn) s = .next t → t.engine.errcode = 0x07) ∧
  (∀ (i : Instr) (k : Nat) (s t : State),
    (∃ b0, i = .dinPush1 b0 ∧ k = 1) ∨ (∃ b0 b1, i = .dinPush2 b0 b1 ∧ k = 2) ∨
      (∃ b0 b1 b2, i = .dinPush3 b0 b1 b2 ∧ k = 3) →
    s.engine.err = false → 128 < s.engine.dinCnt.val + k → exec i s = .next t → t.engine.errcode = 0x03) ∧
  (∀ s t : State, s.engine.err = false → execute 0x41FF0FFF s = .next t → t.engine.errcode = 0x04)

/-- The frame of every command (R23 to R27, R37): each element of the state is changed only by the commands named beside
it; a command that is accepted leaves the rejection record alone, and a recorded rejection stays, but for ERR_CLEAR
and SOFT_RESET. -/
def Obligations.CommandsChangeOnlyTheirElements : Prop :=
  ∀ (i : Instr) (s t : State), exec i s = .next t →
    (i.mnemonic ∉ [.crcInit, .crcByte, .crcDin, .softReset] → t.engine.crc = s.engine.crc) ∧
    (i.mnemonic ∉ [.sidLo, .sidHi, .softReset] → t.engine.sid = s.engine.sid) ∧
    (i.mnemonic ∉ [.dinClear, .dinPush1, .dinPush2, .dinPush3, .softReset] →
      t.engine.din = s.engine.din ∧ t.engine.dinCnt = s.engine.dinCnt) ∧
    (i.mnemonic ∉ [.buildBegin, .buildBlock, .buildBlockV, .buildComplete, .frameClear, .softReset] →
      t.engine.fbuf = s.engine.fbuf ∧ t.engine.fvalid = s.engine.fvalid) ∧
    (i.mnemonic ∉ [.errClear, .softReset] → t.engine.lastRej = false ∨ s.engine.err = true →
      t.engine.err = s.engine.err ∧ t.engine.errcode = s.engine.errcode) ∧
    (t.accesses = s.accesses ∧ t.response = s.response ∧ t.overlapDraws = s.overlapDraws)

/-! ## The control commands -/

/-- R171: NOP only sets `last_rej <- 0`, and only the word 0 is NOP. -/
def Obligations.NopOnlyClearsLastRej : Prop :=
  encode .nop = 0x00000000 ∧
  (∀ s : State, exec .nop s = .next { s with engine := { s.engine with lastRej := false } }) ∧
  ReservedRejected 0x00 0x00FFFFFF id

/-- R172: ERR_CLEAR clears the rejection record, and changes nothing else. -/
def Obligations.ErrClearClearsTheRejectionRecord : Prop :=
  encode .errClear = 0x02000000 ∧
  (∀ s : State, exec .errClear s =
    .next { s with engine := { s.engine with err := false, errcode := 0x00, lastRej := false } }) ∧
  ReservedRejected 0x02 0x00FFFFFF id

/-- R173: SOFT_RESET gives every element its reset value, the state "identical to the state after hardware reset"; and any
other accepted command changes one of the groups CRC, staging, frame and rejection at most. -/
def Obligations.SoftResetGivesTheResetState : Prop :=
  encode .softReset = 0x01000000 ∧
  (∀ s : State, exec .softReset s = .next { s with engine := {
    crc := 0xFFFFFFFF, sid := 0, din := Vector.replicate 128 0x00, dinCnt := 0, fbuf := Vector.replicate 140 0x00,
    fvalid := false, err := false, errcode := 0x00, lastRej := false } }) ∧
  (∀ s t : State, exec .softReset s = .next t → t.engine = State.reset.engine ∧
    (hardwareReset s).engine = t.engine ∧ readRegister .ident t.engine = 0x43524601) ∧
  (∀ (i : Instr) (s t : State), i ≠ .softReset → exec i s = .next t → t.engine.lastRej = false →
    (∃ crc, t.engine = { s.engine with crc := crc, lastRej := false }) ∨
    (∃ sid din dinCnt, t.engine = { s.engine with sid := sid, din := din, dinCnt := dinCnt, lastRej := false }) ∨
    (∃ fbuf fvalid, t.engine = { s.engine with fbuf := fbuf, fvalid := fvalid, lastRej := false }) ∨
    (∃ err errcode, t.engine = { s.engine with err := err, errcode := errcode, lastRej := false })) ∧
  ReservedRejected 0x01 0x00FFFFFF id

/-! ## The CRC unit and its commands -/

/-- R106: CRC_INIT. -/
def Obligations.CrcInitStartsACrc : Prop :=
  encode .crcInit = 0x10000000 ∧
  (∀ s : State, exec .crcInit s =
    .next { s with engine := { s.engine with crc := 0xFFFFFFFF, lastRej := false } }) ∧
  (∀ s t : State, exec .crcInit s = .next t → readRegister .crcValue t.engine = 0x00000000) ∧
  ReservedRejected 0x10 0x00FFFFFF id

/-- R107: CRC_BYTE folds its byte in, and even a zero byte changes every CRC register but zero. -/
def Obligations.CrcByteFoldsOneByteIn : Prop :=
  (∀ b0 : Byte, encode (.crcByte b0) = 0x11000000 ||| b0.setWidth 32) ∧
  (∀ (s : State) (b0 : Byte), exec (.crcByte b0) s =
    .next { s with engine := { s.engine with crc := crcUpdate s.engine.crc b0, lastRej := false } }) ∧
  (∀ c : Word, crcUpdate c 0x00 = c → c = 0x00000000) ∧
  (crcUpdate 0xFFFFFFFF 0x31 = 0x7C231048 ∧ crc32 [0x31] = 0x83DCEFB7) ∧
  ReservedRejected 0x11 0x00FFFF00 id

/-- R108: CRC_DIN folds `din[0..din_cnt)` in, in order, from the running value, and leaves `din` alone; so a span of any
length is computed in rounds of DIN_LOAD and CRC_DIN, of which each stages at most 128 of its bytes. -/
def Obligations.CrcDinFoldsTheStagedBytesIn : Prop :=
  encode .crcDin = 0x12000000 ∧
  (∀ s : State, exec .crcDin s = .next { s with engine := { s.engine with
    crc := (s.engine.din.toList.take s.engine.dinCnt.val).foldl crcUpdate s.engine.crc, lastRej := false } }) ∧
  (∀ (s : State) (rounds : List (List Byte)), (∀ bytes ∈ rounds, bytes.length ≤ 128) →
    ∃ t, execAll (.crcInit :: rounds.flatMap fun bytes => dinLoad bytes ++ [.crcDin]) s = .next t ∧
      readRegister .crcValue t.engine = crc32 rounds.flatten) ∧
  ReservedRejected 0x12 0x00FFFFFF id

/-- R101: the CRC step is the eightfold shift of the reflected register, and bit-reversed it is the shift of the normal
form with 0x04C11DB7 (90_conflicts C1). -/
def Obligations.CrcRoundIsTheReflectedDivision : Prop :=
  (0xEDB88320 : Word) = (0x04C11DB7 : Word).reverse ∧
  (∀ c : Word, crcRound c = if c.getLsbD 0 = true then (c >>> 1) ^^^ 0xEDB88320 else c >>> 1) ∧
  (∀ c : Word, (crcRound c).reverse =
    if c.reverse.msb = true then (c.reverse <<< 1) ^^^ 0x04C11DB7 else c.reverse <<< 1) ∧
  (∀ (c : Word) (b : Byte), crcUpdate c b = (crcRound^[8]) (c ^^^ b.setWidth 32))

/-- R104: `crc_update` is a bijection on the register, additive, zero at zero; and the CRC commands accept every input. -/
def Obligations.CrcUpdateIsAnAdditiveBijection : Prop :=
  (∀ b : Byte, Function.Bijective fun c : Word => crcUpdate c b) ∧
  (∀ c1 c2 : Word, crcUpdate (c1 ^^^ c2) 0x00 = crcUpdate c1 0x00 ^^^ crcUpdate c2 0x00) ∧
  crcUpdate 0x00000000 0x00 = 0x00000000 ∧
  (∀ (i : Instr) (s : State), i.mnemonic ∈ [.crcInit, .crcByte, .crcDin] →
    ∃ crc, exec i s = .next { s with engine := { s.engine with crc := crc, lastRej := false } })

/-- R105: the reference values. -/
def Obligations.CrcReferenceValues : Prop :=
  crc32 [] = 0x00000000 ∧
  crc32 [0x31, 0x32, 0x33, 0x34, 0x35, 0x36, 0x37, 0x38, 0x39] = 0xCBF43926

/-- R103: if `crc` is the running value of the bytes fed since the last CRC_INIT or reset, so it is after every step,
whatever the host did; and CRC_VALUE then reads their `crc32`. -/
def Obligations.StreamingCrcFollowsTheBytesFed : Prop :=
  (∀ (s t : State) (fed : List Byte), s.engine.crc = crcFold 0xFFFFFFFF fed → step s = .next t →
    t.engine.crc = crcFold 0xFFFFFFFF (fedAfterStep s fed)) ∧
  (∀ (e : Engine) (fed : List Byte), e.crc = crcFold 0xFFFFFFFF fed → readRegister .crcValue e = crc32 fed)

/-! ## The staging commands -/

/-- R121: DIN_CLEAR. -/
def Obligations.DinClearEmptiesTheBuffer : Prop :=
  encode .dinClear = 0x20000000 ∧
  (∀ s : State, exec .dinClear s = .next { s with engine := { s.engine with
    din := Vector.replicate 128 0x00, dinCnt := 0, lastRej := false } }) ∧
  ReservedRejected 0x20 0x00FFFFFF id

/-- R122 to R125: a push that fits appends its bytes in operand order and leaves every other byte alone; one that does not
fit is DIN_OVERFLOW and appends none. -/
def Obligations.PushesAppendAllOrNothing : Prop :=
  (∀ b0 : Byte, encode (.dinPush1 b0) = 0x21000000 ||| b0.setWidth 32) ∧
  (∀ b0 b1 : Byte, encode (.dinPush2 b0 b1) = 0x22000000 ||| (b1.setWidth 32 <<< 8) ||| b0.setWidth 32) ∧
  (∀ b0 b1 b2 : Byte, encode (.dinPush3 b0 b1 b2) =
    0x23000000 ||| (b2.setWidth 32 <<< 16) ||| (b1.setWidth 32 <<< 8) ||| b0.setWidth 32) ∧
  (∀ (s : State) (i : Instr) (bytes : List Byte),
    (∃ b0, i = .dinPush1 b0 ∧ bytes = [b0]) ∨ (∃ b0 b1, i = .dinPush2 b0 b1 ∧ bytes = [b0, b1]) ∨
      (∃ b0 b1 b2, i = .dinPush3 b0 b1 b2 ∧ bytes = [b0, b1, b2]) →
    (s.engine.dinCnt.val + bytes.length ≤ 128 → ∃ (din : Vector Byte 128) (cnt : Fin 129),
      exec i s = .next { s with engine := { s.engine with din := din, dinCnt := cnt, lastRej := false } } ∧
      cnt.val = s.engine.dinCnt.val + bytes.length ∧
      ∀ j < 128, byteAt din j = if s.engine.dinCnt.val ≤ j ∧ j < s.engine.dinCnt.val + bytes.length
        then bytes.getD (j - s.engine.dinCnt.val) 0 else byteAt s.engine.din j) ∧
    (128 < s.engine.dinCnt.val + bytes.length →
      exec i s = .next { s with engine := s.engine.reject .dinOverflow })) ∧
  ReservedRejected 0x21 0x00FFFF00 id ∧ ReservedRejected 0x22 0x00FF0000 id

/-- R126: SID_LO writes bits 15:0 of `sid` and keeps bits 31:16. -/
def Obligations.SidLoLoadsTheLowHalf : Prop :=
  (∀ imm16 : Half, encode (.sidLo imm16) = 0x30000000 ||| imm16.setWidth 32) ∧
  (∀ (s : State) (imm16 : Half), ∃ sid : Word,
    exec (.sidLo imm16) s = .next { s with engine := { s.engine with sid := sid, lastRej := false } } ∧
    sid.extractLsb' 0 16 = imm16 ∧ sid.extractLsb' 16 16 = s.engine.sid.extractLsb' 16 16) ∧
  ReservedRejected 0x30 0x00FF0000 id

/-- R127: SID_HI writes bits 31:16 of `sid` and keeps bits 15:0. -/
def Obligations.SidHiLoadsTheHighHalf : Prop :=
  (∀ imm16 : Half, encode (.sidHi imm16) = 0x31000000 ||| imm16.setWidth 32) ∧
  (∀ (s : State) (imm16 : Half), ∃ sid : Word,
    exec (.sidHi imm16) s = .next { s with engine := { s.engine with sid := sid, lastRej := false } } ∧
    sid.extractLsb' 16 16 = imm16 ∧ sid.extractLsb' 0 16 = s.engine.sid.extractLsb' 0 16) ∧
  ReservedRejected 0x31 0x00FF0000 id

/-! ## The framer commands -/

/-- R145 with R82, R83 and R86: with 14 staged bytes BUILD_BEGIN builds the Begin frame, and otherwise it is BAD_IV_COUNT
and leaves no frame. -/
def Obligations.BuildBeginBuildsTheBeginFrame : Prop :=
  (∀ v : BitVec 1, encode (.buildBegin v) = 0x40000000 ||| v.setWidth 32) ∧
  (∀ (s : State) (v : BitVec 1),
    (s.engine.dinCnt.val = 14 → ∃ fbuf : Vector Byte 140,
      exec (.buildBegin v) s =
        .next { s with engine := { s.engine with fbuf := fbuf, fvalid := true, lastRej := false } } ∧
      holdsFrame fbuf (beginFrame s.engine.sid (s.engine.din.toList.take 14) (if v = 1 then 0x01 else 0x00))) ∧
    (s.engine.dinCnt.val ≠ 14 → exec (.buildBegin v) s = .next (rejectedBuild .badIvCount s))) ∧
  ReservedRejected 0x40 0x00FFFFFE Engine.discardFrame

/-- R150 with R82, R84 and R86: with ADDR and LEN in range BUILD_BLOCK builds the Block frame of function Program, and
otherwise it is BAD_ADDRESS before BAD_LENGTH and leaves no frame. -/
def Obligations.BuildBlockBuildsTheBlockFrame : Prop :=
  (∀ (addr : Half) (len : Byte),
    encode (.buildBlock addr len) = 0x41000000 ||| (len.setWidth 32 <<< 16) ||| addr.setWidth 32) ∧
  (∀ (s : State) (addr : Half) (len : Byte),
    (0x1000 ≤ addr → addr ≤ 0x7FFF → len ≤ 0x80 → ∃ fbuf : Vector Byte 140,
      exec (.buildBlock addr len) s =
        .next { s with engine := { s.engine with fbuf := fbuf, fvalid := true, lastRej := false } } ∧
      holdsFrame fbuf (blockFrame addr len 0x00 s.engine.din.toList) ∧
      (s.engine.StagingClean → holdsFrame fbuf (blockFrame addr len 0x00
        (stagedBytes s.engine ++ zeros (128 - s.engine.dinCnt.val))))) ∧
    (addr < 0x1000 ∨ 0x7FFF < addr → exec (.buildBlock addr len) s = .next (rejectedBuild .badAddress s)) ∧
    (0x1000 ≤ addr → addr ≤ 0x7FFF → 0x80 < len → exec (.buildBlock addr len) s = .next (rejectedBuild .badLength s)))

/-- R155: BUILD_BLOCK_V is BUILD_BLOCK with function Verify, and the two frames differ in byte 11 and the CRC only. -/
def Obligations.BuildBlockVBuildsTheVerifyFrame : Prop :=
  (∀ (addr : Half) (len : Byte),
    encode (.buildBlockV addr len) = 0x42000000 ||| (len.setWidth 32 <<< 16) ||| addr.setWidth 32) ∧
  (∀ (s : State) (addr : Half) (len : Byte),
    (0x1000 ≤ addr → addr ≤ 0x7FFF → len ≤ 0x80 → ∃ fbuf : Vector Byte 140,
      exec (.buildBlockV addr len) s =
        .next { s with engine := { s.engine with fbuf := fbuf, fvalid := true, lastRej := false } } ∧
      holdsFrame fbuf (blockFrame addr len 0x01 s.engine.din.toList)) ∧
    (addr < 0x1000 ∨ 0x7FFF < addr → exec (.buildBlockV addr len) s = .next (rejectedBuild .badAddress s)) ∧
    (0x1000 ≤ addr → addr ≤ 0x7FFF → 0x80 < len → exec (.buildBlockV addr len) s = .next (rejectedBuild .badLength s))) ∧
  (∀ (s t u : State) (addr : Half) (len : Byte), 0x1000 ≤ addr → addr ≤ 0x7FFF → len ≤ 0x80 →
    exec (.buildBlock addr len) s = .next t → exec (.buildBlockV addr len) s = .next u →
    byteAt t.engine.fbuf 11 = 0x00 ∧ byteAt u.engine.fbuf 11 = 0x01 ∧
    ∀ i < 140, i ≠ 11 → i < 4 ∨ 8 ≤ i → byteAt t.engine.fbuf i = byteAt u.engine.fbuf i)

/-- R160 with R82, R85 and R86: with FN 0, 1 or 3 BUILD_COMPLETE builds the Complete frame, its version the first 120
staged bytes with zeros after them, and otherwise it is BAD_FUNCTION and leaves no frame. -/
def Obligations.BuildCompleteBuildsTheCompleteFrame : Prop :=
  (∀ fn : Byte, encode (.buildComplete fn) = 0x43000000 ||| fn.setWidth 32) ∧
  (∀ (s : State) (fn : Byte),
    (fn = 0x00 ∨ fn = 0x01 ∨ fn = 0x03 → ∃ fbuf : Vector Byte 140,
      exec (.buildComplete fn) s =
        .next { s with engine := { s.engine with fbuf := fbuf, fvalid := true, lastRej := false } } ∧
      holdsFrame fbuf (completeFrame s.engine.sid fn (s.engine.din.toList.take 120)) ∧
      (s.engine.StagingClean → holdsFrame fbuf (completeFrame s.engine.sid fn
        ((stagedBytes s.engine).take 120 ++ zeros (120 - s.engine.dinCnt.val))))) ∧
    (fn ≠ 0x00 → fn ≠ 0x01 → fn ≠ 0x03 → exec (.buildComplete fn) s = .next (rejectedBuild .badFunction s))) ∧
  ReservedRejected 0x43 0x00FFFF00 Engine.discardFrame

/-- R165: FRAME_CLEAR discards the frame, and a rejected FRAME_CLEAR keeps it. -/
def Obligations.FrameClearDiscardsTheFrame : Prop :=
  encode .frameClear = 0x4F000000 ∧
  (∀ s : State, exec .frameClear s = .next { s with engine := { s.engine with
    fbuf := Vector.replicate 140 0x00, fvalid := false, lastRej := false } }) ∧
  ReservedRejected 0x4F 0x00FFFFFF id

/-- R140: after any BUILD_* word, legal or not, the buffer holds the new frame or nothing; and FRAME_CLEAR is the discard
alone. -/
def Obligations.NoStaleFrameSurvivesABuild : Prop :=
  (∀ (w : Word) (s t : State), opField w ∈ buildOpcodes → execute w s = .next t →
    (t.engine.fvalid = true ∧ t.engine.lastRej = false ∧ t.engine.FrameFormed) ∨
    (t.engine.fvalid = false ∧ t.engine.lastRej = true ∧ t.engine.fbuf = Vector.replicate 140 0x00)) ∧
  (∀ (w : Word) (s : State) (fbuf : Vector Byte 140) (fvalid : Bool), opField w ∈ buildOpcodes →
    execute w s = execute w { s with engine := { s.engine with fbuf := fbuf, fvalid := fvalid } }) ∧
  (∀ s : State, exec .frameClear s = .next { s with engine := { s.engine with
    fbuf := Vector.replicate 140 0x00, fvalid := false, lastRej := false } })

/-- R141: the framer commands neither read nor write the `crc` register. -/
def Obligations.FramerIgnoresTheCrcRegister : Prop :=
  ∀ (i : Instr) (s : State) (c : Word),
    i.mnemonic ∈ [.buildBegin, .buildBlock, .buildBlockV, .buildComplete, .frameClear] →
    ∃ t, exec i s = .next t ∧ t.engine.crc = s.engine.crc ∧
      exec i { s with engine := { s.engine with crc := c } } =
        .next { t with engine := { t.engine with crc := c } }

/-- R143: an accepted build leaves a frame whose CRC field is the CRC of its bytes from 8 to its own length, and whose
first byte is that length. -/
def Obligations.BuiltFramesCheckThemselves : Prop :=
  ∀ (i : Instr) (s t : State), exec i s = .next t → t.engine.lastRej = false →
    ((∃ v, i = .buildBegin v) → (byteAt t.engine.fbuf 0).toNat = 28 ∧
      pack32 t.engine.fbuf 4 = crc32 (slice t.engine.fbuf 8 (byteAt t.engine.fbuf 0).toNat)) ∧
    ((∃ addr len, i = .buildBlock addr len ∨ i = .buildBlockV addr len) → (byteAt t.engine.fbuf 0).toNat = 140 ∧
      pack32 t.engine.fbuf 4 = crc32 (slice t.engine.fbuf 8 (byteAt t.engine.fbuf 0).toNat)) ∧
    ((∃ fn, i = .buildComplete fn) → (byteAt t.engine.fbuf 0).toNat = 136 ∧
      pack32 t.engine.fbuf 4 = crc32 (slice t.engine.fbuf 8 (byteAt t.engine.fbuf 0).toNat))

/-- R166, R210: a step that changes the frame buffer or FVALID is a reset, or a command word that is a BUILD_* or the word
of FRAME_CLEAR or of SOFT_RESET. -/
def Obligations.FrameIsASnapshot : Prop :=
  ∀ (s t : State), step s = .next t →
    (t.engine.fbuf = s.engine.fbuf ∧ t.engine.fvalid = s.engine.fvalid) ∨
    ∃ ev rest, s.accesses = ev :: rest ∧ (isHardwareReset ev = true ∨
      ∃ w, commandWord ev = some w ∧ (opField w ∈ buildOpcodes ∨ w = 0x4F000000 ∨ w = 0x01000000))

/-! ## Invariants -/

/-- The state after reset is safe: staging, frame and rejection record (R25, R26, R27, R200). -/
def Obligations.ResetIsSafe : Prop := State.reset.Safe

/-- R25: every step keeps the zeros of the staging buffer from `din_cnt` on. -/
def Obligations.EveryStepKeepsTheStagingZeros : Prop :=
  ∀ s t : State, s.engine.StagingClean → step s = .next t → t.engine.StagingClean

/-- R26, R143, R208: every step keeps it that the frame buffer holds nothing, or, with FVALID, one of the three frames with
the CRC of its own final bytes, and zeros after it. -/
def Obligations.EveryStepKeepsTheFrameFormed : Prop :=
  ∀ s t : State, s.engine.FrameClean → step s = .next t → t.engine.FrameClean

/-- R27, R180: every step keeps it that ERRCODE is 0 exactly without ERR, is at most 7, and that LAST_REJ implies ERR. -/
def Obligations.EveryStepKeepsTheRejectionRecord : Prop :=
  ∀ s t : State, s.engine.RecordClean → step s = .next t → t.engine.RecordClean

/-- R185: a recorded rejection and its code stay until ERR_CLEAR, SOFT_RESET or reset. -/
def Obligations.RecordedRejectionIsSticky : Prop :=
  ∀ s t : State, step s = .next t → s.engine.err = true →
    (t.engine.err = true ∧ t.engine.errcode = s.engine.errcode) ∨
    ∃ ev rest, s.accesses = ev :: rest ∧ (isHardwareReset ev = true ∨
      commandWord ev = some 0x02000000 ∨ commandWord ev = some 0x01000000)

/-! ## The host's accesses -/

/-- R52: what a 32-bit read at each 4-aligned offset is answered; it changes nothing but the response. -/
def Obligations.HostReadsReturnTheRegisters : Prop :=
  ∀ (s : State) (rest : List HostEvent) (off : BitVec 10), s.accesses = hostRead off :: rest → off.toNat % 4 = 0 →
    ∃ r, step s = .next { s with accesses := rest, response := some r } ∧
      (off = 0x004 → r = .readData (statusWord s.engine)) ∧
      (off = 0x008 → r = .readData (s.engine.crc ^^^ 0xFFFFFFFF)) ∧
      (off = 0x00C → r = .readData s.engine.sid) ∧
      (off = 0x010 → r = .readData 0x43524601) ∧
      (∀ k < 35, off.toNat = 0x100 + 4 * k → r = .readData (pack32 s.engine.fbuf (4 * k))) ∧
      (∀ k < 32, off.toNat = 0x200 + 4 * k → r = .readData (pack32 s.engine.din (4 * k))) ∧
      (off = 0x000 ∨ unmappedOffset off.toNat → r = .busError)

/-- R30: the fields of STATUS. -/
def Obligations.StatusShowsItsFields : Prop :=
  (∀ e : Engine, let v := statusWord e
    v.getLsbD 0 = e.fvalid ∧ v.getLsbD 1 = e.err ∧ v.getLsbD 2 = e.lastRej ∧ v.extractLsb' 3 5 = 0 ∧
    v.extractLsb' 8 8 = e.errcode ∧ v.extractLsb' 16 8 = byteAt e.fbuf 0 ∧
    (v.extractLsb' 24 8).toNat = e.dinCnt.val) ∧
  (∀ e : Engine, e.FrameClean → e.fvalid = false → (statusWord e).extractLsb' 16 8 = 0x00) ∧
  statusWord State.reset.engine = 0x00000000

/-- R31, R32, R33: IDENT, CRC_VALUE and SESSION_ID as the host reads them, and after reset; a read leaves the engine as it
was. -/
def Obligations.IdentCrcValueAndSessionIdRead : Prop :=
  (readRegister .ident State.reset.engine = 0x43524601 ∧ readRegister .crcValue State.reset.engine = 0x00000000 ∧
    readRegister .sessionId State.reset.engine = 0x00000000) ∧
  (∀ s t : State, exec .crcInit s = .next t → readRegister .crcValue t.engine = 0x00000000) ∧
  ∀ (s : State) (rest : List HostEvent),
    (s.accesses = hostRead 0x010 :: rest →
      step s = .next { s with accesses := rest, response := some (.readData 0x43524601) }) ∧
    (s.accesses = hostRead 0x008 :: rest →
      step s = .next { s with accesses := rest, response := some (.readData (s.engine.crc ^^^ 0xFFFFFFFF)) } ∧
      ∀ fed : List Byte, s.engine.crc = crcFold 0xFFFFFFFF fed →
        step s = .next { s with accesses := rest, response := some (.readData (crc32 fed)) }) ∧
    (s.accesses = hostRead 0x00C :: rest →
      step s = .next { s with accesses := rest, response := some (.readData s.engine.sid) })

/-- R34, R35, R56: byte `4k+j` of the frame buffer, and of the staging buffer, stands in bits `8j+7:8j` of its word. -/
def Obligations.WindowsShowTheLowestByteLowest : Prop :=
  (∀ (e : Engine) (k : Fin 35) (j : Nat), j < 4 →
    (readRegister (.frame k) e).extractLsb' (8 * j) 8 = byteAt e.fbuf (4 * k.val + j)) ∧
  (∀ (e : Engine) (k : Fin 32) (j : Nat), j < 4 →
    (readRegister (.din k) e).extractLsb' (8 * j) 8 = byteAt e.din (4 * k.val + j)) ∧
  (∀ (e : Engine) (k : Fin 35), e.FrameClean → e.fvalid = false → readRegister (.frame k) e = 0x00000000) ∧
  (∀ (e : Engine) (k : Fin 32), e.StagingClean → e.dinCnt.val ≤ 4 * k.val → readRegister (.din k) e = 0x00000000)

/-- R54: an access is a bus error exactly by the causes (a) to (d), and then it changes nothing in the engine. -/
def Obligations.BusErrorsAreExactlyThoseListed : Prop :=
  ∀ (s : State) (rest : List HostEvent) (a : WindowAccess), s.accesses = .access (.window a) :: rest →
    (isBusError a → step s = .next { s with accesses := rest, response := some .busError }) ∧
    (¬ isBusError a → ∃ t, step s = .next t ∧ (t.response = some .writeDone ∨ ∃ v, t.response = some (.readData v)))

/-- R51, R9: for every `BASE`, an access in the window is the HostRead or HostWrite of its offset if it is a single
aligned 32-bit access, and if it is anything else a bus error that changes no engine state. An access outside the window
is not the engine's; that the address alone decides, even of a wide access or a burst that reaches over an edge, is the
model's choice (log entry 3). -/
def Obligations.WindowAccessesForEveryBase : Prop :=
  ∀ (base addr bytes beats : Nat) (kind : AccessKind), base % 0x400 = 0 →
    (base ≤ addr → addr < base + 0x400 →
      (bytes = 4 → beats = 1 → addr % 4 = 0 → ∃ off : BitVec 10, base + off.toNat = addr ∧ off.toNat % 4 = 0 ∧
        HostAccess.route base (.bus ⟨addr, bytes, beats, kind⟩) = some ⟨off, 4, 1, kind⟩) ∧
      (¬ (bytes = 4 ∧ beats = 1 ∧ addr % 4 = 0) → ∃ a,
        HostAccess.route base (.bus ⟨addr, bytes, beats, kind⟩) = some a ∧ isBusError a ∧
        ∀ s, performWindow a s = .next { s with response := some .busError })) ∧
    (addr < base ∨ base + 0x400 ≤ addr → HostAccess.route base (.bus ⟨addr, bytes, beats, kind⟩) = none)

/-- R53: "CMD is the engine's only writable location. Every change of engine state other than reset happens through a
command." -/
def Obligations.OnlyCommandsAndResetsChangeTheEngine : Prop :=
  (∀ (s : State) (rest : List HostEvent) (off : BitVec 10) (w : Word), s.accesses = hostWrite off w :: rest →
    (off = 0x000 → ∃ t, execute w { s with accesses := rest } = .next t ∧
      step s = .next { t with response := some .writeDone }) ∧
    (off ≠ 0x000 → step s = .next { s with accesses := rest, response := some .busError })) ∧
  (∀ s t : State, step s = .next t → t.engine ≠ s.engine → ∃ ev rest, s.accesses = ev :: rest ∧
    (isHardwareReset ev = true ∨ ∃ h a w, ev = .access h ∧ h.route Config.base = some a ∧ a.kind = .write w ∧
      a.off = 0x000 ∧ a.bytes = 4 ∧ a.beats = 1))

/-- R58: no read is a command, and each access that is none leaves the engine as it was; so a read answers the same again
after any number of accesses of which none is a command. Writes to CMD are not idempotent. -/
def Obligations.ReadsHaveNoSideEffectsAndWritesDo : Prop :=
  (∀ a : HostAccess, (∀ w, a.route Config.base = some w → w.kind = .read) → issuesNoCommand (.access a)) ∧
  (∀ (s : State) (ev : HostEvent) (rest : List HostEvent), s.accesses = ev :: rest → issuesNoCommand ev →
    ∃ t, step s = .next t ∧ t.engine = s.engine ∧ t.accesses = rest) ∧
  (∀ (s : State) (ev : HostEvent) (between rest : List HostEvent), s.accesses = ev :: (between ++ ev :: rest) →
    issuesNoCommand ev → (∀ x ∈ between, issuesNoCommand x) →
    ∃ t u, step s = .next t ∧ Host.Core.run Sys2Proof.core (between.length + 1) t = .next u ∧
      u.engine = s.engine ∧ u.response = t.response) ∧
  (∀ (s : State) (b0 : Byte), execAll [.crcByte b0, .crcByte b0] s = .next { s with engine := { s.engine with
    crc := crcUpdate (crcUpdate s.engine.crc b0) b0, lastRej := false } }) ∧
  (∀ (s : State) (b0 : Byte), s.engine.dinCnt.val + 2 ≤ 128 → ∃ t, execAll [.dinPush1 b0, .dinPush1 b0] s = .next t ∧
    t.engine.dinCnt.val = s.engine.dinCnt.val + 2 ∧ byteAt t.engine.din s.engine.dinCnt.val = b0 ∧
    byteAt t.engine.din (s.engine.dinCnt.val + 1) = b0)

/-- R57, R205: every access finishes within its own step, whatever it is, and the next one finds its result: `n` steps
serve the first `n` accesses, and no step stops the machine. The list of accesses, and the step that finds it empty, are
the model's (log entries 1 and 2). -/
def Obligations.EveryAccessIsServed : Prop :=
  ∀ (n : Nat) (s : State), ∃ t : State, Host.Core.run Sys2Proof.core n s = .next t ∧
    t.accesses = s.accesses.drop n

/-! ## Reset -/

/-- R200: hardware reset gives every element the value stated, and the registers then read as stated. -/
def Obligations.HardwareResetGivesTheStatedValues : Prop :=
  (State.reset.engine.crc = 0xFFFFFFFF ∧ State.reset.engine.sid = 0x00000000 ∧
    State.reset.engine.din = Vector.replicate 128 0x00 ∧ State.reset.engine.dinCnt.val = 0 ∧
    State.reset.engine.fbuf = Vector.replicate 140 0x00 ∧ State.reset.engine.fvalid = false ∧
    State.reset.engine.err = false ∧ State.reset.engine.errcode = 0x00 ∧ State.reset.engine.lastRej = false) ∧
  (∀ (s : State) (rest : List HostEvent), s.accesses = .reset :: rest → ∃ t, step s = .next t ∧
    t.engine = State.reset.engine ∧ t.accesses = rest ∧
    readRegister .status t.engine = 0x00000000 ∧ readRegister .crcValue t.engine = 0x00000000 ∧
    readRegister .sessionId t.engine = 0x00000000 ∧ readRegister .ident t.engine = 0x43524601 ∧
    (∀ k, readRegister (.frame k) t.engine = 0x00000000) ∧ (∀ k, readRegister (.din k) t.engine = 0x00000000)) ∧
  (∀ s t : State, exec .softReset s = .next t → t.engine = State.reset.engine)

/-- R202: a reset that overlaps an access leaves the reset state, whatever the access; a read it overlaps is answered by
the free value, whatever that is (log entry 5). -/
def Obligations.ResetOverlappingAnAccessLosesItsEffects : Prop :=
  ∀ (s : State) (rest : List HostEvent) (a : HostAccess), s.accesses = .resetDuring a :: rest →
    ∃ t, step s = .next t ∧ t.engine = State.reset.engine ∧ t.accesses = rest ∧
      (∀ w r, a.route Config.base = some w → target? w = some (.read r) →
        t.response = some (.readData (Config.overlappedRead s.overlapDraws)))

/-! ## The pseudo-instructions -/

/-- R81: from every state DIN_LOAD of at most 128 bytes leaves exactly them staged, zeros after them, and nothing else
changed but `last_rej`. -/
def Obligations.DinLoadStagesExactlyItsBytes : Prop :=
  ∀ (s : State) (bytes : List Byte), bytes.length ≤ 128 → ∃ (din : Vector Byte 128) (cnt : Fin 129),
    execAll (dinLoad bytes) s =
      .next { s with engine := { s.engine with din := din, dinCnt := cnt, lastRej := false } } ∧
    cnt.val = bytes.length ∧ din.toList = bytes ++ zeros (128 - bytes.length)

/-- R81, R105: from every state CRC_OF of at most 128 bytes makes CRC_VALUE read their `crc32`, and SID_SET loads its
32-bit value. -/
def Obligations.CrcOfAndSidSetLeaveTheirValues : Prop :=
  (∀ (s : State) (bytes : List Byte), bytes.length ≤ 128 → ∃ t, execAll (crcOf bytes) s = .next t ∧
    readRegister .crcValue t.engine = crc32 bytes ∧ stagedBytes t.engine = bytes ∧
    t.engine.sid = s.engine.sid ∧ t.engine.fbuf = s.engine.fbuf ∧ t.engine.fvalid = s.engine.fvalid) ∧
  (∀ (s : State) (imm32 : Word), execAll (sidSet imm32) s =
    .next { s with engine := { s.engine with sid := imm32, lastRej := false } })

/-- R81, R82 to R86: from every state the sequences BEGIN, BLOCK and COMPLETE leave in the buffer exactly the frame of
their operands, byte for byte, and record no rejection. -/
def Obligations.FrameSequencesBuildTheirFrames : Prop :=
  (∀ (s : State) (sid : Word) (iv : List Byte) (v : BitVec 1), iv.length = 14 →
    ∃ t, execAll (beginSeq sid iv v) s = .next t ∧ t.engine.fvalid = true ∧ t.engine.lastRej = false ∧
      t.engine.err = s.engine.err ∧ holdsFrame t.engine.fbuf (beginFrame sid iv (v.setWidth 8))) ∧
  (∀ (s : State) (addr : Half) (len : Byte) (verify : BitVec 1) (data : List Byte),
    0x1000 ≤ addr → addr ≤ 0x7FFF → len ≤ 0x80 → data.length ≤ 128 →
    ∃ t, execAll (blockSeq addr len verify data) s = .next t ∧ t.engine.fvalid = true ∧ t.engine.lastRej = false ∧
      t.engine.err = s.engine.err ∧
      holdsFrame t.engine.fbuf (blockFrame addr len (verify.setWidth 8) (data ++ zeros (128 - data.length)))) ∧
  (∀ (s : State) (fn : Byte) (version : List Byte), fn = 0x00 ∨ fn = 0x01 ∨ fn = 0x03 → version.length ≤ 128 →
    ∃ t, execAll (completeSeq fn version) s = .next t ∧ t.engine.fvalid = true ∧ t.engine.lastRej = false ∧
      t.engine.err = s.engine.err ∧ holdsFrame t.engine.fbuf
        (completeFrame s.engine.sid fn (version.take 120 ++ zeros (120 - version.length))))
end

