-- ==== Sys2Proof/Laws/Buffers.lean ====
section
/-! SUPPORT. The laws of the byte buffers: a read after a write, what a write leaves alone, a slice as a list. -/

namespace Sys2Proof.Machine

variable {n : Nat}

theorem byteAt_setIfInBounds (a : Vector Byte n) (i j : Nat) (b : Byte) :
    byteAt (a.setIfInBounds i b) j = if i = j ∧ i < n then b else byteAt a j := by
  unfold byteAt
  rw [Vector.getElem?_setIfInBounds]
  by_cases h : i = j
  · subst h
    by_cases hn : i < n <;> simp [hn]
  · simp [h]

/-- A byte after a write: the byte written there, or the byte that was there. -/
theorem byteAt_writeBytes (a : Vector Byte n) (i j : Nat) (bytes : List Byte) :
    byteAt (writeBytes a i bytes) j =
      if i ≤ j ∧ j < i + bytes.length ∧ j < n then bytes.getD (j - i) 0 else byteAt a j := by
  induction bytes generalizing a i with
  | nil =>
    rw [writeBytes, if_neg]
    simp only [List.length_nil]
    omega
  | cons b bs ih =>
    rw [writeBytes, ih, byteAt_setIfInBounds]
    rcases Nat.lt_trichotomy i j with h | h | h
    · have hs : j - i = (j - (i + 1)) + 1 := by omega
      rw [if_neg (show ¬ (i = j ∧ i < n) by omega), hs, List.getD_cons_succ, List.length_cons]
      split <;> split <;> first | rfl | omega
    · subst h
      by_cases hn : i < n <;> simp [hn]
    · rw [if_neg (by omega), if_neg (by omega), if_neg (by omega)]

/-- A write leaves every byte outside it alone. -/
theorem byteAt_writeBytes_outside (a : Vector Byte n) {i j : Nat} (bytes : List Byte)
    (h : j < i ∨ i + bytes.length ≤ j) : byteAt (writeBytes a i bytes) j = byteAt a j := by
  rw [byteAt_writeBytes, if_neg (by omega)]

theorem byteAt_replicate (k i : Nat) : byteAt (Vector.replicate k (0x00 : Byte)) i = 0x00 := by
  unfold byteAt
  by_cases h : i < k <;> simp [h]

theorem byteAt_toList (a : Vector Byte n) (i : Nat) : byteAt a i = a.toList.getD i 0 := by
  simp [byteAt, List.getD_eq_getElem?_getD]

theorem byteAt_eq_getElem (a : Vector Byte n) {i : Nat} (h : i < n) : byteAt a i = a[i] := by
  simp [byteAt, h]

/-- Two buffers with the same bytes are the same buffer. -/
theorem ext_byteAt {a b : Vector Byte n} (h : ∀ i < n, byteAt a i = byteAt b i) : a = b :=
  Vector.ext fun i hi => by rw [← byteAt_eq_getElem a hi, h i hi, byteAt_eq_getElem b hi]

/-- A write as a list: what was before it, the bytes written, what was after it. -/
theorem toList_writeBytes (a : Vector Byte n) (i : Nat) (bytes : List Byte) (h : i + bytes.length ≤ n) :
    (writeBytes a i bytes).toList = a.toList.take i ++ bytes ++ a.toList.drop (i + bytes.length) := by
  apply List.ext_getElem
  · simp only [Vector.length_toList, List.length_append, List.length_take, List.length_drop]
    omega
  · intro j h1 h2
    have hj : j < n := by simpa using h1
    rw [Vector.getElem_toList, ← byteAt_eq_getElem _ hj, byteAt_writeBytes]
    split
    · next hc =>
      rw [List.getElem_append_left (by simp; omega), List.getElem_append_right (by simp; omega),
        List.getD_eq_getElem _ _ (by omega)]
      simp [Nat.min_eq_left (show i ≤ n by omega)]
    · next hc =>
      rw [byteAt_eq_getElem _ hj]
      by_cases hlt : j < i
      · rw [List.getElem_append_left (by simp; omega), List.getElem_append_left (by simp; omega)]
        simp
      · rw [List.getElem_append_right (by simp; omega), List.getElem_drop, Vector.getElem_toList]
        congr 1
        simp
        omega

@[simp] theorem length_slice (a : Vector Byte n) (lo hi : Nat) : (slice a lo hi).length = min hi n - lo := by
  simp [slice]

/-- Byte `k` of a slice is byte `lo + k` of the buffer. -/
theorem getD_slice (a : Vector Byte n) {lo hi k : Nat} (h : lo + k < hi) :
    (slice a lo hi).getD k 0 = byteAt a (lo + k) := by
  rw [byteAt_toList]
  simp [slice, List.getD_eq_getElem?_getD, h]

@[simp] theorem length_zeros (k : Nat) : (zeros k).length = k := by simp [zeros]

theorem toList_replicate_zeros (k : Nat) : (Vector.replicate k (0x00 : Byte)).toList = zeros k := by
  simp [zeros]

/-- Assembling from left to right: a write where the zeros begin puts its bytes there. -/
theorem toList_writeBytes_zeros {a : Vector Byte n} {front bytes : List Byte} {i k : Nat}
    (ha : a.toList = front ++ zeros k) (hi : front.length = i) (hk : bytes.length ≤ k) :
    (writeBytes a i bytes).toList = (front ++ bytes) ++ zeros (k - bytes.length) := by
  have hn : n = i + k := by
    have := congrArg List.length ha
    simpa [hi] using this
  rw [toList_writeBytes a i bytes (by omega), ha, ← hi, List.take_left, ← List.drop_drop, List.drop_left]
  simp [zeros]

@[simp] theorem length_le16 (v : Half) : (le16 v).length = 2 := rfl

@[simp] theorem length_le32 (v : Word) : (le32 v).length = 4 := rfl

end Sys2Proof.Machine
end

