-- ==== Sys2Proof/Laws/Crc.lean ====
section
/-! SUPPORT. Small laws of the CRC, and a form of it that the kernel evaluates one byte at a time. -/

namespace Sys2Proof.Machine

@[simp] theorem crcFold_nil (c : Word) : crcFold c [] = c := rfl

@[simp] theorem crcFold_cons (c : Word) (b : Byte) (bs : List Byte) :
    crcFold c (b :: bs) = crcFold (crcUpdate c b) bs := rfl

theorem crcFold_append (c : Word) (as bs : List Byte) : crcFold c (as ++ bs) = crcFold (crcFold c as) bs :=
  List.foldl_append

@[simp] theorem xor_final_twice (c : Word) : c ^^^ crcFinalXor ^^^ crcFinalXor = c := by
  rw [BitVec.xor_assoc, BitVec.xor_self, BitVec.xor_zero]

/-- `k` of a word, the word's value taken first: matching on the number makes the kernel compute it. -/
def eagerly (c : Word) (k : Word → Word) : Word :=
  match c.toNat with
  | 0 => k 0
  | n + 1 => k (BitVec.ofNat 32 (n + 1))

theorem eagerly_eq (c : Word) (k : Word → Word) : eagerly c k = k c := by
  unfold eagerly
  split
  · next h => rw [show c = 0 from BitVec.eq_of_toNat_eq h]
  · next n h => rw [← Nat.succ_eq_add_one, ← h, BitVec.ofNat_toNat, BitVec.setWidth_eq]

/-- `crcFold`, byte by byte. -/
def crcFoldEager (c : Word) : List Byte → Word
  | [] => c
  | b :: bs => eagerly (crcUpdate c b) fun c' => crcFoldEager c' bs

theorem crcFold_eq_eager (c : Word) (bytes : List Byte) : crcFold c bytes = crcFoldEager c bytes := by
  induction bytes generalizing c with
  | nil => rfl
  | cons b bs ih => rw [crcFold_cons, crcFoldEager, eagerly_eq, ih]

/-- For evaluating `crc32` of a long sequence. -/
theorem crc32_eq_eager (bytes : List Byte) : crc32 bytes = crcFoldEager crcInitValue bytes ^^^ crcFinalXor := by
  rw [crc32, crcFold_eq_eager]

end Sys2Proof.Machine
end

