-- ==== Sys2Proof/Laws/State.lean ====
section
/-! SUPPORT. The fields of the state after each update: one lemma per field, so that no proof unfolds a record update. -/

namespace Sys2Proof.Machine

section State
variable (s : State) (f : Engine → Engine) (r : Response) (ev : HostEvent)

@[simp] theorem State.onEngine_engine : (s.onEngine f).engine = f s.engine := rfl
@[simp] theorem State.onEngine_accesses : (s.onEngine f).accesses = s.accesses := rfl
@[simp] theorem State.onEngine_response : (s.onEngine f).response = s.response := rfl
@[simp] theorem State.onEngine_overlapDraws : (s.onEngine f).overlapDraws = s.overlapDraws := rfl

@[simp] theorem State.respond_engine : (s.respond r).engine = s.engine := rfl
@[simp] theorem State.respond_accesses : (s.respond r).accesses = s.accesses := rfl
@[simp] theorem State.respond_response : (s.respond r).response = some r := rfl
@[simp] theorem State.respond_overlapDraws : (s.respond r).overlapDraws = s.overlapDraws := rfl

@[simp] theorem State.issueFirst_engine : (s.issueFirst ev).engine = s.engine := rfl
@[simp] theorem State.issueFirst_accesses : (s.issueFirst ev).accesses = ev :: s.accesses := rfl
@[simp] theorem State.issueFirst_response : (s.issueFirst ev).response = s.response := rfl
@[simp] theorem State.issueFirst_overlapDraws : (s.issueFirst ev).overlapDraws = s.overlapDraws := rfl

@[simp] theorem hardwareReset_engine : (hardwareReset s).engine = Engine.reset := rfl
@[simp] theorem hardwareReset_accesses : (hardwareReset s).accesses = s.accesses := rfl
@[simp] theorem hardwareReset_response : (hardwareReset s).response = none := rfl
@[simp] theorem hardwareReset_overlapDraws : (hardwareReset s).overlapDraws = s.overlapDraws := rfl
end State

section Engine
variable (e : Engine) (code : RejectCode) (i length : Nat) (bytes : List Byte)

@[simp] theorem Engine.accept_crc : e.accept.crc = e.crc := rfl
@[simp] theorem Engine.accept_sid : e.accept.sid = e.sid := rfl
@[simp] theorem Engine.accept_din : e.accept.din = e.din := rfl
@[simp] theorem Engine.accept_dinCnt : e.accept.dinCnt = e.dinCnt := rfl
@[simp] theorem Engine.accept_fbuf : e.accept.fbuf = e.fbuf := rfl
@[simp] theorem Engine.accept_fvalid : e.accept.fvalid = e.fvalid := rfl
@[simp] theorem Engine.accept_err : e.accept.err = e.err := rfl
@[simp] theorem Engine.accept_errcode : e.accept.errcode = e.errcode := rfl
@[simp] theorem Engine.accept_lastRej : e.accept.lastRej = false := rfl

/-- A rejection, in one record update. -/
theorem Engine.reject_eq : e.reject code =
    { e with lastRej := true, err := true, errcode := if e.err then e.errcode else code.code } := by
  unfold Engine.reject
  split <;> simp_all

@[simp] theorem Engine.reject_crc : (e.reject code).crc = e.crc := by simp [Engine.reject_eq]
@[simp] theorem Engine.reject_sid : (e.reject code).sid = e.sid := by simp [Engine.reject_eq]
@[simp] theorem Engine.reject_din : (e.reject code).din = e.din := by simp [Engine.reject_eq]
@[simp] theorem Engine.reject_dinCnt : (e.reject code).dinCnt = e.dinCnt := by simp [Engine.reject_eq]
@[simp] theorem Engine.reject_fbuf : (e.reject code).fbuf = e.fbuf := by simp [Engine.reject_eq]
@[simp] theorem Engine.reject_fvalid : (e.reject code).fvalid = e.fvalid := by simp [Engine.reject_eq]
@[simp] theorem Engine.reject_err : (e.reject code).err = true := by simp [Engine.reject_eq]
@[simp] theorem Engine.reject_errcode :
    (e.reject code).errcode = if e.err then e.errcode else code.code := by simp [Engine.reject_eq]
@[simp] theorem Engine.reject_lastRej : (e.reject code).lastRej = true := by simp [Engine.reject_eq]

@[simp] theorem Engine.clearRejection_crc : e.clearRejection.crc = e.crc := rfl
@[simp] theorem Engine.clearRejection_sid : e.clearRejection.sid = e.sid := rfl
@[simp] theorem Engine.clearRejection_din : e.clearRejection.din = e.din := rfl
@[simp] theorem Engine.clearRejection_dinCnt : e.clearRejection.dinCnt = e.dinCnt := rfl
@[simp] theorem Engine.clearRejection_fbuf : e.clearRejection.fbuf = e.fbuf := rfl
@[simp] theorem Engine.clearRejection_fvalid : e.clearRejection.fvalid = e.fvalid := rfl
@[simp] theorem Engine.clearRejection_err : e.clearRejection.err = false := rfl
@[simp] theorem Engine.clearRejection_errcode : e.clearRejection.errcode = 0 := rfl
@[simp] theorem Engine.clearRejection_lastRej : e.clearRejection.lastRej = e.lastRej := rfl

@[simp] theorem Engine.discardFrame_crc : e.discardFrame.crc = e.crc := rfl
@[simp] theorem Engine.discardFrame_sid : e.discardFrame.sid = e.sid := rfl
@[simp] theorem Engine.discardFrame_din : e.discardFrame.din = e.din := rfl
@[simp] theorem Engine.discardFrame_dinCnt : e.discardFrame.dinCnt = e.dinCnt := rfl
@[simp] theorem Engine.discardFrame_fbuf : e.discardFrame.fbuf = Vector.replicate Config.fbufSize 0 := rfl
@[simp] theorem Engine.discardFrame_fvalid : e.discardFrame.fvalid = false := rfl
@[simp] theorem Engine.discardFrame_err : e.discardFrame.err = e.err := rfl
@[simp] theorem Engine.discardFrame_errcode : e.discardFrame.errcode = e.errcode := rfl
@[simp] theorem Engine.discardFrame_lastRej : e.discardFrame.lastRej = e.lastRej := rfl

@[simp] theorem Engine.putFrame_crc : (e.putFrame i bytes).crc = e.crc := rfl
@[simp] theorem Engine.putFrame_sid : (e.putFrame i bytes).sid = e.sid := rfl
@[simp] theorem Engine.putFrame_din : (e.putFrame i bytes).din = e.din := rfl
@[simp] theorem Engine.putFrame_dinCnt : (e.putFrame i bytes).dinCnt = e.dinCnt := rfl
@[simp] theorem Engine.putFrame_fbuf : (e.putFrame i bytes).fbuf = writeBytes e.fbuf i bytes := rfl
@[simp] theorem Engine.putFrame_fvalid : (e.putFrame i bytes).fvalid = e.fvalid := rfl
@[simp] theorem Engine.putFrame_err : (e.putFrame i bytes).err = e.err := rfl
@[simp] theorem Engine.putFrame_errcode : (e.putFrame i bytes).errcode = e.errcode := rfl
@[simp] theorem Engine.putFrame_lastRej : (e.putFrame i bytes).lastRej = e.lastRej := rfl

@[simp] theorem Engine.finalize_crc : (e.finalize length).crc = e.crc := rfl
@[simp] theorem Engine.finalize_sid : (e.finalize length).sid = e.sid := rfl
@[simp] theorem Engine.finalize_din : (e.finalize length).din = e.din := rfl
@[simp] theorem Engine.finalize_dinCnt : (e.finalize length).dinCnt = e.dinCnt := rfl
@[simp] theorem Engine.finalize_fbuf :
    (e.finalize length).fbuf = writeBytes e.fbuf 4 (le32 (crc32 (slice e.fbuf 8 length))) := rfl
@[simp] theorem Engine.finalize_fvalid : (e.finalize length).fvalid = true := rfl
@[simp] theorem Engine.finalize_err : (e.finalize length).err = e.err := rfl
@[simp] theorem Engine.finalize_errcode : (e.finalize length).errcode = e.errcode := rfl
@[simp] theorem Engine.finalize_lastRej : (e.finalize length).lastRej = e.lastRej := rfl
end Engine

end Sys2Proof.Machine
end

