-- ==== Sys2Proof/Laws/Ops.lean ====
section
/-! SUPPORT. What each shared operation can do, said once: cite these, do not unfold the operations. -/

namespace Sys2Proof.Machine

variable {s t : State} {e e' : Engine}

theorem perform_eq_next (f : Engine → Engine) (s : State) : perform f s = .next (s.onEngine f) := rfl

/-- A command goes to a next state, which differs in the engine alone. -/
theorem perform_next {f : Engine → Engine} (h : perform f s = .next t) : t = s.onEngine f := by
  simpa [perform] using h.symm

/-- A command is accepted with its whole effect, or rejected with none of it (R183). -/
theorem Engine.command_cases (body : Engine → Except RejectCode Engine) (e : Engine) :
    (∃ e', body e = .ok e' ∧ e.command body = e'.accept) ∨
    (∃ code, body e = .error code ∧ e.command body = e.reject code) := by
  unfold Engine.command
  cases body e with
  | ok e' => exact .inl ⟨e', rfl, rfl⟩
  | error code => exact .inr ⟨code, rfl, rfl⟩

theorem Engine.command_ok {body : Engine → Except RejectCode Engine} (h : body e = .ok e') :
    e.command body = e'.accept := by
  simp [Engine.command, h]

theorem Engine.command_error {body : Engine → Except RejectCode Engine} {code : RejectCode}
    (h : body e = .error code) : e.command body = e.reject code := by
  simp [Engine.command, h]

theorem Engine.build_ok {body : Engine → Except RejectCode Engine} (h : body e.discardFrame = .ok e') :
    e.build body = e'.accept :=
  Engine.command_ok h

theorem Engine.build_error {body : Engine → Except RejectCode Engine} {code : RejectCode}
    (h : body e.discardFrame = .error code) : e.build body = e.discardFrame.reject code :=
  Engine.command_error h

/-- The patch after assembly (R142): a frame assembled with a zero placeholder gets, in the placeholder's place, the CRC
of everything after it. -/
theorem Engine.finalize_toList {header body : List Byte} {length : Nat}
    (hf : e.fbuf.toList = header ++ zeros 4 ++ body ++ zeros (Config.fbufSize - length))
    (hh : header.length = 4) (hl : length = body.length + 8) :
    (e.finalize length).fbuf.toList =
      header ++ le32 (crc32 body) ++ body ++ zeros (Config.fbufSize - length) := by
  have hs : slice e.fbuf 8 length = body := by
    have h8 : (header ++ zeros 4).length = 8 := by simp [hh]
    rw [slice, hf, List.take_append_of_le_length (by simp [hh]; omega), List.take_of_length_le (by simp [hh]; omega),
      ← h8, List.drop_left]
  rw [Engine.finalize_fbuf, hs, toList_writeBytes _ _ _ (by simp [Config.fbufSize]), hf]
  have ht : (header ++ zeros 4 ++ body ++ zeros (Config.fbufSize - length)).take 4 = header := by
    rw [List.append_assoc, List.append_assoc, ← hh, List.take_left]
  have hd : (header ++ zeros 4 ++ body ++ zeros (Config.fbufSize - length)).drop (4 + (le32 (crc32 body)).length) =
      body ++ zeros (Config.fbufSize - length) := by
    have h8 : 4 + (le32 (crc32 body)).length = (header ++ zeros 4).length := by simp [hh]
    rw [h8, List.append_assoc, List.drop_left]
  rw [ht, hd, ← List.append_assoc]

/-- A push that does not fit is DIN_OVERFLOW (R122). -/
theorem Engine.push_overflow {bytes : List Byte} (h : Config.dinCap < e.dinCnt.val + bytes.length) :
    e.push bytes = .error .dinOverflow := by
  simp [Engine.push, h]

/-- A push that fits appends its bytes, and changes nothing else (R122). -/
theorem Engine.push_fits {bytes : List Byte} (h : e.dinCnt.val + bytes.length ≤ Config.dinCap) :
    e.push bytes = .ok { e with
      din := writeBytes e.din e.dinCnt.val bytes
      dinCnt := ⟨e.dinCnt.val + bytes.length, Nat.lt_succ_of_le h⟩ } := by
  simp [Engine.push, Nat.not_lt.mpr h]

/-- A push keeps the zeros above the count (R25). -/
theorem Engine.push_keeps_stagingClean {bytes : List Byte} (hc : e.StagingClean) (h : e.push bytes = .ok e') :
    e'.StagingClean := by
  by_cases hf : e.dinCnt.val + bytes.length ≤ Config.dinCap
  · rw [Engine.push_fits hf] at h
    cases h
    intro i hi
    have hi' : e.dinCnt.val + bytes.length ≤ i.val := hi
    show byteAt (writeBytes e.din e.dinCnt.val bytes) i.val = 0
    rw [byteAt_writeBytes_outside _ _ (.inr hi')]
    exact hc i (by omega)
  · rw [Engine.push_overflow (by omega)] at h
    cases h

/-- What an answered write can be: the same outcome, with the response of a completed write in its next state. -/
theorem answerWrite_next {o : StepOutcome} (h : o = .next s) : answerWrite o = .next (s.respond .writeDone) := by
  simp [answerWrite, h]

/-- What one access to the window does (R54, R58, R170). -/
theorem performWindow_cases (a : WindowAccess) (s : State) :
    (target? a = none ∧ performWindow a s = .next (s.respond .busError)) ∨
    (∃ r, target? a = some (.read r) ∧
      performWindow a s = .next (s.respond (.readData (readRegister r s.engine)))) ∨
    (∃ w, target? a = some (.command w) ∧ performWindow a s = answerWrite (execute w s)) := by
  unfold performWindow
  cases h : target? a with
  | none => exact .inl ⟨rfl, rfl⟩
  | some target =>
    cases target with
    | read r => exact .inr (.inl ⟨r, rfl, rfl⟩)
    | command w => exact .inr (.inr ⟨w, rfl, rfl⟩)

/-- What running a word does: the command it decodes to, or one of the two rejections of a word (R170). -/
theorem execute_cases (w : Word) (s : State) :
    (∃ i, decode w = .ok i ∧ execute w s = exec i s) ∨
    (∃ op, decode w = .error (.illegalOpcode op) ∧ execute w s = .next (s.onEngine (Engine.reject .illegalOpcode))) ∨
    (∃ m, decode w = .error (.reservedNonzero m) ∧ execute w s =
      .next (s.onEngine fun e => (if m.isBuild then e.discardFrame else e).reject .reservedNonzero)) := by
  unfold execute
  cases h : decode w with
  | ok i => exact .inl ⟨i, rfl, rfl⟩
  | error err =>
    cases err with
    | illegalOpcode op => exact .inr (.inl ⟨op, rfl, rfl⟩)
    | reservedNonzero m => exact .inr (.inr ⟨m, rfl, rfl⟩)

/-- An assigned opcode with no reserved bit decodes to its command. -/
theorem decode_of_legal {w : Word} {m : Mnemonic} (hm : mnemonicOf? (opField w) = some m)
    (hr : w &&& m.format.reservedMask = 0) : decode w = .ok (instrOf m w) := by
  simp [decode, hm, hr]

/-- An assigned opcode with a reserved bit is refused by that name. -/
theorem decode_of_reserved {w : Word} {m : Mnemonic} (hm : mnemonicOf? (opField w) = some m)
    (hr : w &&& m.format.reservedMask ≠ 0) : decode w = .error (.reservedNonzero m) := by
  simp only [decode, hm, if_pos hr]

/-- An opcode that is not assigned is refused by that name. -/
theorem decode_of_illegal {w : Word} (hm : mnemonicOf? (opField w) = none) :
    decode w = .error (.illegalOpcode (opField w)) := by
  simp [decode, hm]

/-! The `match` words as numbers (R75). -/

@[simp] theorem matchWord_nop : Mnemonic.nop.matchWord = 0x00000000 := by decide
@[simp] theorem matchWord_softReset : Mnemonic.softReset.matchWord = 0x01000000 := by decide
@[simp] theorem matchWord_errClear : Mnemonic.errClear.matchWord = 0x02000000 := by decide
@[simp] theorem matchWord_crcInit : Mnemonic.crcInit.matchWord = 0x10000000 := by decide
@[simp] theorem matchWord_crcByte : Mnemonic.crcByte.matchWord = 0x11000000 := by decide
@[simp] theorem matchWord_crcDin : Mnemonic.crcDin.matchWord = 0x12000000 := by decide
@[simp] theorem matchWord_dinClear : Mnemonic.dinClear.matchWord = 0x20000000 := by decide
@[simp] theorem matchWord_dinPush1 : Mnemonic.dinPush1.matchWord = 0x21000000 := by decide
@[simp] theorem matchWord_dinPush2 : Mnemonic.dinPush2.matchWord = 0x22000000 := by decide
@[simp] theorem matchWord_dinPush3 : Mnemonic.dinPush3.matchWord = 0x23000000 := by decide
@[simp] theorem matchWord_sidLo : Mnemonic.sidLo.matchWord = 0x30000000 := by decide
@[simp] theorem matchWord_sidHi : Mnemonic.sidHi.matchWord = 0x31000000 := by decide
@[simp] theorem matchWord_buildBegin : Mnemonic.buildBegin.matchWord = 0x40000000 := by decide
@[simp] theorem matchWord_buildBlock : Mnemonic.buildBlock.matchWord = 0x41000000 := by decide
@[simp] theorem matchWord_buildBlockV : Mnemonic.buildBlockV.matchWord = 0x42000000 := by decide
@[simp] theorem matchWord_buildComplete : Mnemonic.buildComplete.matchWord = 0x43000000 := by decide
@[simp] theorem matchWord_frameClear : Mnemonic.frameClear.matchWord = 0x4F000000 := by decide

/-- Every mnemonic is found by its opcode. -/
theorem mnemonicOf?_opcode (m : Mnemonic) : mnemonicOf? m.opcode = some m := by
  cases m <;> decide

/-- The opcode of a command that an opcode stands for. -/
theorem opcode_of_mnemonicOf? {op : Byte} {m : Mnemonic} (h : mnemonicOf? op = some m) : m.opcode = op := by
  have := List.find?_some h
  simpa using this

end Sys2Proof.Machine
end

