-- ==== Sys2Proof/Laws/Framer.lean ====
section
/-! SUPPORT. What the body of each BUILD_* can do: fail its check, or write the frame buffer and FVALID and nothing else. -/

namespace Sys2Proof.Machine

variable (e : Engine)

/-- Writing frame bytes changes the frame buffer only. -/
theorem Engine.putFrame_frameOnly {e x : Engine} (i : Nat) (bytes : List Byte)
    (h : ∃ fbuf, x = { e with fbuf := fbuf }) : ∃ fbuf, x.putFrame i bytes = { e with fbuf := fbuf } := by
  obtain ⟨f, rfl⟩ := h
  exact ⟨_, rfl⟩

/-- Finishing a frame changes the frame buffer and FVALID only. -/
theorem Engine.finalize_frameOnly {e x : Engine} (length : Nat) (h : ∃ fbuf, x = { e with fbuf := fbuf }) :
    ∃ fbuf, (.ok (x.finalize length) : Except RejectCode Engine) = .ok { e with fbuf := fbuf, fvalid := true } := by
  obtain ⟨f, rfl⟩ := h
  exact ⟨_, rfl⟩

/-- A frame assembled in six writes and finished, as the three bodies do it. -/
theorem Engine.six_writes_frameOnly (e : Engine) (i₁ i₂ i₃ i₄ i₅ i₆ length : Nat) (b₁ b₂ b₃ b₄ b₅ b₆ : List Byte) :
    ∃ fbuf, (.ok (e
      |>.putFrame i₁ b₁ |>.putFrame i₂ b₂ |>.putFrame i₃ b₃ |>.putFrame i₄ b₄ |>.putFrame i₅ b₅ |>.putFrame i₆ b₆
      |>.finalize length) : Except RejectCode Engine) = .ok { e with fbuf := fbuf, fvalid := true } := by
  apply Engine.finalize_frameOnly
  iterate 6 apply Engine.putFrame_frameOnly
  exact ⟨_, rfl⟩

/-- BUILD_BEGIN's body (R145). -/
theorem Engine.buildBegin_cases (v : BitVec 1) :
    (e.dinCnt.val ≠ 14 ∧ e.buildBegin v = .error .badIvCount) ∨
    (e.dinCnt.val = 14 ∧ ∃ fbuf, e.buildBegin v = .ok { e with fbuf := fbuf, fvalid := true }) := by
  unfold Engine.buildBegin
  split
  · next h => exact .inl ⟨h, rfl⟩
  · next h => exact .inr ⟨not_not.mp h, Engine.six_writes_frameOnly ..⟩

/-- The body of BUILD_BLOCK and BUILD_BLOCK_V (R150). -/
theorem Engine.buildBlock_cases (fn : Byte) (addr : Half) (len : Byte) :
    ((addr < 0x1000 ∨ addr > 0x7FFF) ∧ e.buildBlock fn addr len = .error .badAddress) ∨
    (¬ (addr < 0x1000 ∨ addr > 0x7FFF) ∧ len > 0x80 ∧ e.buildBlock fn addr len = .error .badLength) ∨
    (¬ (addr < 0x1000 ∨ addr > 0x7FFF) ∧ ¬ len > 0x80 ∧
      ∃ fbuf, e.buildBlock fn addr len = .ok { e with fbuf := fbuf, fvalid := true }) := by
  unfold Engine.buildBlock
  split
  · next h => exact .inl ⟨h, rfl⟩
  · next h =>
    split
    · next h2 => exact .inr (.inl ⟨h, h2, rfl⟩)
    · next h2 => exact .inr (.inr ⟨h, h2, Engine.six_writes_frameOnly ..⟩)

/-- BUILD_COMPLETE's body (R160). -/
theorem Engine.buildComplete_cases (fn : Byte) :
    (fn ∉ [0x00, 0x01, 0x03] ∧ e.buildComplete fn = .error .badFunction) ∨
    (fn ∈ [0x00, 0x01, 0x03] ∧ ∃ fbuf, e.buildComplete fn = .ok { e with fbuf := fbuf, fvalid := true }) := by
  unfold Engine.buildComplete
  split
  · next h => exact .inl ⟨h, rfl⟩
  · next h => exact .inr ⟨not_not.mp h, Engine.six_writes_frameOnly ..⟩

end Sys2Proof.Machine
end

