-- ==== Sys2Proof/Laws/PerInstr.lean ====
section
/-! SUPPORT. Statements for all instructions, proved per constructor. -/

namespace Sys2Proof.Laws.EncodedLegal

/-- The word of an instruction is "a legal instance of the row": `(w AND mask) = match` (R75). -/
def Statement (i : Instr) : Prop := encode i &&& i.mnemonic.legalMask = i.mnemonic.matchWord

theorem nop : Statement .nop := by unfold Statement; decide

theorem softReset : Statement .softReset := by unfold Statement; decide

theorem errClear : Statement .errClear := by unfold Statement; decide

theorem crcInit : Statement .crcInit := by unfold Statement; decide

theorem crcDin : Statement .crcDin := by unfold Statement; decide

theorem dinClear : Statement .dinClear := by unfold Statement; decide

theorem frameClear : Statement .frameClear := by unfold Statement; decide

/-- Operand fields that are zero under the mask make a legal word, if the mask keeps the opcode. -/
theorem of_fieldBits {i : Instr} (hm : i.mnemonic.matchWord &&& i.mnemonic.legalMask = i.mnemonic.matchWord)
    (hf : fieldBits i &&& i.mnemonic.legalMask = 0#32) : Statement i := by
  unfold Statement encode
  rw [BitVec.and_or_distrib_right, hf, BitVec.or_zero]
  exact hm

/-- The opcode's bits are under the mask of its row. -/
theorem matchWord_and_legalMask (m : Mnemonic) : m.matchWord &&& m.legalMask = m.matchWord := by
  cases m <;> decide

/-- A field shifted into place is zero under a mask that is zero there. -/
theorem field_and_mask {k : Nat} (m : Mnemonic) (sh : Nat) (x : BitVec k)
    (h : ∀ i, i < k → m.legalMask.getLsbD (sh + i) = false) :
    x.setWidth 32 <<< sh &&& m.legalMask = 0#32 := by
  apply BitVec.eq_of_getLsbD_eq
  intro i hi
  rw [BitVec.getLsbD_and, BitVec.getLsbD_shiftLeft, BitVec.getLsbD_setWidth, BitVec.getLsbD_zero]
  by_cases h1 : i < sh
  · simp [h1]
  · by_cases h2 : i - sh < k
    · have := h (i - sh) h2
      rw [Nat.add_sub_cancel' (by omega)] at this
      simp [this]
    · simp [BitVec.getLsbD_of_ge x (i - sh) (by omega)]

/-- The same for a field that starts at bit 0. -/
theorem low_field_and_mask {k : Nat} (m : Mnemonic) (x : BitVec k)
    (h : ∀ i, i < k → m.legalMask.getLsbD i = false) : x.setWidth 32 &&& m.legalMask = 0#32 := by
  simpa using field_and_mask m 0 x (by simpa using h)

theorem crcByte (b0 : Byte) : Statement (.crcByte b0) :=
  of_fieldBits (matchWord_and_legalMask .crcByte) (low_field_and_mask .crcByte b0 (by decide))

theorem dinPush1 (b0 : Byte) : Statement (.dinPush1 b0) :=
  of_fieldBits (matchWord_and_legalMask .dinPush1) (low_field_and_mask .dinPush1 b0 (by decide))

theorem dinPush2 (b0 b1 : Byte) : Statement (.dinPush2 b0 b1) := by
  refine of_fieldBits (matchWord_and_legalMask .dinPush2) ?_
  show (b1.setWidth 32 <<< 8 ||| b0.setWidth 32) &&& Mnemonic.dinPush2.legalMask = 0#32
  rw [BitVec.and_or_distrib_right, field_and_mask .dinPush2 8 b1 (by decide),
    low_field_and_mask .dinPush2 b0 (by decide), BitVec.or_zero]

theorem dinPush3 (b0 b1 b2 : Byte) : Statement (.dinPush3 b0 b1 b2) := by
  refine of_fieldBits (matchWord_and_legalMask .dinPush3) ?_
  show (b2.setWidth 32 <<< 16 ||| b1.setWidth 32 <<< 8 ||| b0.setWidth 32) &&& Mnemonic.dinPush3.legalMask = 0#32
  rw [BitVec.and_or_distrib_right, BitVec.and_or_distrib_right, field_and_mask .dinPush3 16 b2 (by decide),
    field_and_mask .dinPush3 8 b1 (by decide), low_field_and_mask .dinPush3 b0 (by decide), BitVec.or_zero,
    BitVec.or_zero]

theorem sidLo (imm16 : Half) : Statement (.sidLo imm16) :=
  of_fieldBits (matchWord_and_legalMask .sidLo) (low_field_and_mask .sidLo imm16 (by decide))

theorem sidHi (imm16 : Half) : Statement (.sidHi imm16) :=
  of_fieldBits (matchWord_and_legalMask .sidHi) (low_field_and_mask .sidHi imm16 (by decide))

theorem buildBegin (v : BitVec 1) : Statement (.buildBegin v) :=
  of_fieldBits (matchWord_and_legalMask .buildBegin) (low_field_and_mask .buildBegin v (by decide))

theorem buildBlock (addr : Half) (len : Byte) : Statement (.buildBlock addr len) := by
  refine of_fieldBits (matchWord_and_legalMask .buildBlock) ?_
  show (len.setWidth 32 <<< 16 ||| addr.setWidth 32) &&& Mnemonic.buildBlock.legalMask = 0#32
  rw [BitVec.and_or_distrib_right, field_and_mask .buildBlock 16 len (by decide),
    low_field_and_mask .buildBlock addr (by decide), BitVec.or_zero]

theorem buildBlockV (addr : Half) (len : Byte) : Statement (.buildBlockV addr len) := by
  refine of_fieldBits (matchWord_and_legalMask .buildBlockV) ?_
  show (len.setWidth 32 <<< 16 ||| addr.setWidth 32) &&& Mnemonic.buildBlockV.legalMask = 0#32
  rw [BitVec.and_or_distrib_right, field_and_mask .buildBlockV 16 len (by decide),
    low_field_and_mask .buildBlockV addr (by decide), BitVec.or_zero]

theorem buildComplete (fn : Byte) : Statement (.buildComplete fn) :=
  of_fieldBits (matchWord_and_legalMask .buildComplete) (low_field_and_mask .buildComplete fn (by decide))

end Sys2Proof.Laws.EncodedLegal
end

