-- ==== Sys2Proof/Tests/Slice0.lean ====
section
/-! SUPPORT. The model's own tests. Expected values are the spec's: R80, the examples of the commands' rules, and the vectors
of 95_test_vectors (named L2 F1, S2, ... as there). Then a witness for the hypotheses of each obligation. -/

/-! One theorem at a time: the kernel evaluates, and the memory of the check is bounded. -/
set_option Elab.async false

namespace Sys2Proof.Machine.Tests

/-! ## Small states -/

/-- The engine after reset but for a session id and staged bytes. -/
def staged (sid : Word) (bytes : List Byte) : Engine :=
  { Engine.reset with
    sid := sid
    din := writeBytes Engine.reset.din 0 bytes
    dinCnt := Fin.ofNat 129 bytes.length }

/-- The machine after reset but for its engine. -/
def withEngine (e : Engine) : State := { State.reset with engine := e }

/-- The machine with an engine and one event to come. -/
def facing (e : Engine) (ev : HostEvent) : State := { State.reset with engine := e, accesses := [ev] }

/-- What a register reads after an outcome. -/
def reads (r : Register) (o : StepOutcome) : Option Word :=
  match o with
  | .next s => some (readRegister r s.engine)
  | .fault _ => none
  | .refused _ => none

/-- The engine after an outcome. -/
def engineAfter (o : StepOutcome) : Option Engine :=
  match o with
  | .next s => some s.engine
  | .fault _ => none
  | .refused _ => none

/-- The response after an outcome. -/
def responseAfter (o : StepOutcome) : Option Response :=
  match o with
  | .next s => s.response
  | .fault _ => none
  | .refused _ => none

/-- Set-up P of 95_test_vectors §2.4. -/
def setupP : Engine := staged 0x12345678 [0x00, 0x01, 0x02, 0x03, 0x04, 0x05, 0x06, 0x07, 0x08, 0x09, 0x0A, 0x0B, 0x0C, 0x0D]

/-- Set-up Q of 95_test_vectors §2.4. -/
def setupQ : Engine := staged 0 [0x01, 0x02, 0x03, 0x04, 0x05]

/-- The set-up of vector F21: "1.0" staged. -/
def setupV : Engine := staged 0x12345678 [0x31, 0x2E, 0x30]

/-- A frame buffer that is not empty, with FVALID. -/
def framed (e : Engine) : Engine := { e with fbuf := writeBytes e.fbuf 0 [0x1C, 0x00, 0x00, 0x80], fvalid := true }

/-! ## Well-formedness of assembly lines: each check refuses a line -/

theorem test_wf_missing_operand : AsmLine.wellFormed ⟨.command .crcByte, []⟩ = false := by decide
theorem test_wf_operand_too_many : AsmLine.wellFormed ⟨.command .nop, [0]⟩ = false := by decide
theorem test_wf_byte_too_wide : AsmLine.wellFormed ⟨.command .dinPush2, [255, 256]⟩ = false := by decide
theorem test_wf_half_too_wide : AsmLine.wellFormed ⟨.command .buildBlock, [0x10000, 0]⟩ = false := by decide
theorem test_wf_bit_too_wide : AsmLine.wellFormed ⟨.command .buildBegin, [2]⟩ = false := by decide
theorem test_wf_sid_too_wide : AsmLine.wellFormed ⟨.pseudo .sidSet, [0x100000000]⟩ = false := by decide
theorem test_wf_din_too_long : AsmLine.wellFormed ⟨.pseudo .dinLoad, List.replicate 129 0⟩ = false := by decide +kernel
theorem test_wf_din_longest : AsmLine.wellFormed ⟨.pseudo .dinLoad, List.replicate 128 255⟩ = true := by decide +kernel
theorem test_wf_crcOf_not_bytes : AsmLine.wellFormed ⟨.pseudo .crcOf, [256]⟩ = false := by decide
theorem test_wf_begin_iv_short : AsmLine.wellFormed ⟨.pseudo .beginFrame, 7 :: List.replicate 14 0⟩ = false := by decide
theorem test_wf_block_data_too_wide : AsmLine.wellFormed ⟨.pseudo .block, [0x1000, 5, 0, 256]⟩ = false := by decide
theorem test_wf_complete_no_function : AsmLine.wellFormed ⟨.pseudo .complete, []⟩ = false := by decide

/-! ## Decoding: the words of R75 with operands, written out by R71 -/

theorem test_decode_nop : decode 0x00000000 = .ok .nop := by decide
theorem test_decode_softReset : decode 0x01000000 = .ok .softReset := by decide
theorem test_decode_errClear : decode 0x02000000 = .ok .errClear := by decide
theorem test_decode_crcInit : decode 0x10000000 = .ok .crcInit := by decide
theorem test_decode_crcByte : decode 0x11000031 = .ok (.crcByte 0x31) := by decide
theorem test_decode_crcDin : decode 0x12000000 = .ok .crcDin := by decide
theorem test_decode_dinClear : decode 0x20000000 = .ok .dinClear := by decide
theorem test_decode_dinPush1 : decode 0x210000AB = .ok (.dinPush1 0xAB) := by decide
theorem test_decode_dinPush2 : decode 0x22000201 = .ok (.dinPush2 0x01 0x02) := by decide
theorem test_decode_dinPush3 : decode 0x23030201 = .ok (.dinPush3 0x01 0x02 0x03) := by decide
theorem test_decode_sidLo : decode 0x30005678 = .ok (.sidLo 0x5678) := by decide
theorem test_decode_sidHi : decode 0x31001234 = .ok (.sidHi 0x1234) := by decide
theorem test_decode_buildBegin : decode 0x40000001 = .ok (.buildBegin 1) := by decide
theorem test_decode_buildBlock : decode 0x41101000 = .ok (.buildBlock 0x1000 0x10) := by decide
theorem test_decode_buildBlockV : decode 0x42101000 = .ok (.buildBlockV 0x1000 0x10) := by decide
theorem test_decode_buildComplete : decode 0x43000003 = .ok (.buildComplete 0x03) := by decide
theorem test_decode_frameClear : decode 0x4F000000 = .ok .frameClear := by decide
theorem test_decode_illegal : decode 0x44000000 = .error (.illegalOpcode 0x44) := by decide
theorem test_decode_reserved : decode 0x40000002 = .error (.reservedNonzero .buildBegin) := by decide
theorem test_decode_hint : decode 0x00000001 = .error (.reservedNonzero .nop) := by decide
theorem test_encode_push3 : encode (.dinPush3 0x01 0x02 0x03) = 0x23030201 := by decide
theorem test_encode_block : encode (.buildBlock 0x1000 0x10) = 0x41101000 := by decide

/-- No word is an instance of two rows of R75. -/
theorem test_no_rows_overlap :
    opcodeMap.Pairwise fun r q => r.matchWord &&& (r.mask &&& q.mask) ≠ q.matchWord &&& (r.mask &&& q.mask) := by
  decide

theorem test_table_word : decodeTableWord 32 0x43000000 = some (.buildComplete 0x00) := by decide

/-! ## Assembly: the examples of R80 and programs of 95_test_vectors -/

theorem test_asm_crcByte : assembleText "CRC_BYTE 0x31" = some [0x11000031] := by decide +kernel
theorem test_asm_push3 : assembleText "DIN_PUSH3 0x01, 0x02, 0x03" = some [0x23030201] := by decide +kernel
theorem test_asm_sidLo : assembleText "SID_LO 0x5678" = some [0x30005678] := by decide +kernel
theorem test_asm_begin : assembleText "BUILD_BEGIN 1" = some [0x40000001] := by decide +kernel
theorem test_asm_block : assembleText "BUILD_BLOCK 0x1000, 0x10" = some [0x41101000] := by decide +kernel
theorem test_asm_complete : assembleText "BUILD_COMPLETE 3" = some [0x43000003] := by decide +kernel
theorem test_asm_not_truncated : assembleText "CRC_BYTE 256" = none := by decide +kernel
theorem test_asm_lower_case : assembleText "nop" = none := by decide +kernel
theorem test_asm_sidSet : assembleText "SID_SET 0x12345678" = some [0x30005678, 0x31001234] := by decide +kernel
theorem test_asm_dinLoad : assembleText "DIN_LOAD 1, 2, 3, 4, 5" = some [0x20000000, 0x23030201, 0x22000504] := by
  decide +kernel
/-- L3.1. -/
theorem test_asm_crcOf : assembleText "CRC_OF 0x31, 0x32, 0x33, 0x34, 0x35, 0x36, 0x37, 0x38, 0x39" =
    some [0x10000000, 0x20000000, 0x23333231, 0x23363534, 0x23393837, 0x12000000] := by decide +kernel
/-- L3.4, with L3.2's session id kept. -/
theorem test_asm_completeSeq : assembleText "COMPLETE 3, 0x31, 0x2E, 0x30" =
    some [0x20000000, 0x23302E31, 0x43000003] := by decide +kernel
theorem test_asm_blockSeq : assembleText "BLOCK 0x1000, 0x10, 1, 1, 2, 3, 4, 5" =
    some [0x20000000, 0x23030201, 0x22000504, 0x42101000] := by decide +kernel
/-- L3.2. -/
theorem test_asm_beginSeq : assembleText "BEGIN 0x12345678, 0, 1, 2, 3, 4, 5, 6, 7, 8, 9, 10, 11, 12, 13, 0" =
    some [0x30005678, 0x31001234, 0x20000000, 0x23020100, 0x23050403, 0x23080706, 0x230B0A09, 0x22000D0C,
      0x40000000] := by decide +kernel

/-! ## The CRC function: §2.1 -/

theorem test_crc_one : crc32 [0x31] = 0x83DCEFB7 := by decide +kernel
theorem test_crc_check : crc32 [0x31, 0x32, 0x33, 0x34, 0x35, 0x36, 0x37, 0x38, 0x39] = 0xCBF43926 := by decide +kernel
theorem test_crc_128_ff : crc32 (List.replicate 128 0xFF) = 0x652D544C := by
  rw [crc32_eq_eager]
  decide +kernel
theorem test_crcUpdate_80 : crcUpdate 0x00000000 0x80 = 0xEDB88320 := by decide +kernel
theorem test_crcUpdate_ff : crcUpdate 0xFFFFFFFF 0xFF = 0x00FFFFFF := by decide +kernel

/-! ## The commands, one step each -/

/-- R171's example: ERR and ERRCODE are kept. -/
theorem test_nop : reads .status (exec .nop (withEngine { Engine.reset with lastRej := true, err := true, errcode := 0x04 })) =
    some 0x00000402 := by decide +kernel
/-- R172's example. -/
theorem test_errClear : reads .status (exec .errClear (withEngine
    { framed Engine.reset with err := true, errcode := 0x05, lastRej := true })) = some 0x001C0001 := by decide +kernel
/-- K10. -/
theorem test_softReset : engineAfter (exec .softReset (withEngine
    { framed setupP with err := true, errcode := 0x04, lastRej := true, crc := 0 })) = some Engine.reset := by decide +kernel
/-- R106's example. -/
theorem test_crcInit : reads .crcValue (exec .crcInit (withEngine { Engine.reset with crc := 0x12345678 })) =
    some 0x00000000 := by decide +kernel
/-- C1. -/
theorem test_crcByte : reads .crcValue (exec (.crcByte 0x31) State.reset) = some 0x83DCEFB7 := by decide +kernel
/-- C3: nothing is staged. -/
theorem test_crcDin_empty : reads .crcValue (exec .crcDin State.reset) = some 0x00000000 := by decide +kernel
/-- C4, first round: not from the initial value but from the running one. -/
theorem test_crcDin : reads .crcValue (exec .crcDin (withEngine
    { staged 0 [0x61, 0x62, 0x63] with crc := 0xCADBBE3D })) = some 0x726E994C := by decide +kernel
/-- S12: a frame in `fbuf` is kept. -/
theorem test_dinClear : reads .status (exec .dinClear (withEngine (framed setupP))) = some 0x001C0001 := by decide +kernel
theorem test_dinClear_bytes : reads (.din 0) (exec .dinClear (withEngine setupP)) = some 0x00000000 := by decide +kernel
/-- S1. -/
theorem test_push1 : reads (.din 0) (exec (.dinPush1 0xAB) State.reset) = some 0x000000AB := by decide +kernel
/-- S9. -/
theorem test_push1_full : reads .status (exec (.dinPush1 0x01) (withEngine (staged 0 (zeros 128)))) = some 0x80000306 := by
  decide +kernel
/-- S2. -/
theorem test_push2 : reads (.din 0) (exec (.dinPush2 0x01 0x02) (withEngine (staged 0 [0xAB]))) = some 0x000201AB := by
  decide +kernel
/-- S5: not even the byte that would fit. -/
theorem test_push2_overflow : engineAfter (exec (.dinPush2 0x01 0x02) (withEngine (staged 0 (zeros 127)))) =
    some { staged 0 (zeros 127) with lastRej := true, err := true, errcode := 0x03 } := by decide +kernel
/-- S8. -/
theorem test_push3_fills : reads (.din 31) (exec (.dinPush3 0x01 0x02 0x03) (withEngine (staged 0 (zeros 125)))) =
    some 0x03020100 := by decide +kernel
/-- S7. -/
theorem test_push3_overflow : reads .status (exec (.dinPush3 0x01 0x02 0x03) (withEngine (staged 0 (zeros 126)))) =
    some 0x7E000306 := by decide +kernel
/-- S16. -/
theorem test_sidLo : reads .sessionId (exec (.sidLo 0x5678) (withEngine (staged 0xAAAABBBB []))) = some 0xAAAA5678 := by
  decide +kernel
/-- R127's example. -/
theorem test_sidHi : reads .sessionId (exec (.sidHi 0x1234) (withEngine (staged 0xAAAA5678 []))) = some 0x12345678 := by
  decide +kernel
/-- F1. -/
theorem test_buildBegin_crc : reads (.frame 1) (exec (.buildBegin 0) (withEngine setupP)) = some 0x09336960 := by
  decide +kernel
/-- F2. -/
theorem test_buildBegin_verify : reads (.frame 6) (exec (.buildBegin 1) (withEngine setupP)) = some 0x00010D0C := by
  decide +kernel
/-- F7. -/
theorem test_buildBlock_crc :
    reads (.frame 1) (exec (.buildBlock 0x1000 0x10) (withEngine setupQ)) = some 0x80567F2B := by
  simp only [exec, execBuildBlock, perform, State.onEngine, Engine.build, Engine.command, Engine.buildBlock,
    Engine.finalize, crc32_eq_eager]
  decide +kernel
/-- F16. -/
theorem test_buildBlock_first_check :
    reads .status (exec (.buildBlock 0x0FFF 0xFF) (withEngine setupQ)) = some 0x05000406 := by decide +kernel
/-- F8. -/
theorem test_buildBlockV_crc :
    reads (.frame 1) (exec (.buildBlockV 0x1000 0x10) (withEngine setupQ)) = some 0x3FB5E1C8 := by
  simp only [exec, execBuildBlockV, perform, State.onEngine, Engine.build, Engine.command, Engine.buildBlock,
    Engine.finalize, crc32_eq_eager]
  decide +kernel
/-- F12, for the V form (R155: "exactly as rule R150"). -/
theorem test_buildBlockV_length :
    reads .status (exec (.buildBlockV 0x1000 0x81) (withEngine (framed setupQ))) = some 0x05000506 := by decide +kernel
/-- F21. -/
theorem test_buildComplete_crc :
    reads (.frame 1) (exec (.buildComplete 0x03) (withEngine setupV)) = some 0x2DEFE44D := by
  simp only [exec, execBuildComplete, perform, State.onEngine, Engine.build, Engine.command, Engine.buildComplete,
    Engine.finalize, crc32_eq_eager]
  decide +kernel
/-- F24. -/
theorem test_buildComplete_function :
    reads .status (exec (.buildComplete 0x02) (withEngine setupV)) = some 0x03000706 := by decide +kernel
/-- F28. -/
theorem test_frameClear : engineAfter (exec .frameClear (withEngine (framed setupP))) = some setupP := by decide +kernel

/-! ## Words, accesses and reset, one step each -/

/-- F6: the earlier frame is discarded before the reserved-bit check. -/
theorem test_reserved_build_discards :
    reads .status (execute 0x40000002 (withEngine (framed setupP))) = some 0x0E000206 := by decide +kernel
/-- F29: FRAME_CLEAR is not a BUILD. -/
theorem test_reserved_frameClear_keeps :
    reads .status (execute 0x4F000001 (withEngine (framed setupP))) = some 0x0E1C0207 := by decide +kernel
/-- K9: an unassigned opcode is illegal before the discard step. -/
theorem test_illegal_keeps_frame :
    reads .status (execute 0x44000000 (withEngine (framed setupP))) = some 0x0E1C0107 := by decide +kernel
/-- K6: the first code is kept. -/
theorem test_first_code_kept : reads .status (execute 0xFF000000 (withEngine
    { Engine.reset with err := true, errcode := 0x02 })) = some 0x00000206 := by decide +kernel
/-- B1. -/
theorem test_read_cmd : responseAfter (step (facing setupP (hostRead 0x000))) = some .busError := by decide +kernel
/-- B2. -/
theorem test_write_status : responseAfter (step (facing setupP (hostWrite 0x004 0))) = some .busError := by decide +kernel
/-- B4: "No CRC_INIT is executed." -/
theorem test_byte_write : engineAfter (step (facing { Engine.reset with crc := 5 }
    (.access (.window ⟨0x003, 1, 1, .write 0x10⟩)))) = some { Engine.reset with crc := 5 } := by decide +kernel
/-- B5. -/
theorem test_misaligned : responseAfter (step (facing setupP (hostRead 0x006))) = some .busError := by decide +kernel
/-- B6. -/
theorem test_unmapped : [0x014, 0x0FC, 0x18C, 0x280, 0x3FC].map
    (fun off => responseAfter (step (facing setupP (hostRead off)))) = List.replicate 5 (some .busError) := by decide +kernel
/-- B7, B8: the last mapped words. -/
theorem test_last_words : [0x188, 0x27C].map (fun off => target? ⟨off, 4, 1, .read⟩) =
    [some (.read (.frame 34)), some (.read (.din 31))] := by decide
/-- S3. -/
theorem test_read_din : responseAfter (step (facing setupQ (hostRead 0x204))) = some (.readData 0x00000005) := by
  decide +kernel
/-- K13. -/
theorem test_read_ident : responseAfter (step (facing setupQ (hostRead 0x010))) = some (.readData 0x43524601) := by
  decide +kernel
/-- A rejected command's write "completes normally on the bus" (R181). -/
theorem test_rejected_write_completes :
    responseAfter (step (facing setupQ (hostWrite 0x000 0x03000000))) = some .writeDone := by decide +kernel
/-- The host's one-word question: the word runs as the first command after reset. -/
theorem test_withFetchWord : reads .status (step (State.reset.withFetchWord 32 0x210000AB)) = some 0x01000000 := by
  decide +kernel
/-- A bus address maps to the window's offset, for any `BASE` (R51). -/
theorem test_route : HostAccess.route 0x40000400 (.bus ⟨0x40000408, 4, 1, .read⟩) = some ⟨0x008, 4, 1, .read⟩ ∧
    HostAccess.route 0x40000400 (.bus ⟨0x40000800, 4, 1, .read⟩) = none := by decide
/-- R200 by the reset event. -/
theorem test_reset_event : engineAfter (step (facing (framed setupP) .reset)) = some Engine.reset := by decide +kernel
/-- D34's examples: an ignored write, and a read returning all ones. -/
theorem test_bus_error_report : hostView (.ignored 0xFFFFFFFF) .read .busError = .value 0xFFFFFFFF ∧
    hostView (.ignored 0xFFFFFFFF) (.write 0) .busError = .done := by decide

/-! ## Witnesses: concrete states and operands that meet the hypotheses of each obligation, clause by clause -/

theorem witness_EncodeOfDecodeIsTheWord : decode 0x23FFFFFF = .ok (.dinPush3 0xFF 0xFF 0xFF) := by decide

theorem witness_LegalWordsAreThoseOfTheOpcodeMap :
    (⟨.frameClear, .f0, 0x4F000000, 0xFFFFFFFF⟩ : OpcodeRow) ∈ opcodeMap ∧
    (0x4F000000 : Word) &&& 0xFFFFFFFF = 0x4F000000 := by decide

theorem witness_OperandsAreTheFieldsOfTheirFormat : decode 0x41807FFF = .ok (.buildBlock 0x7FFF 0x80) := by decide

theorem witness_UnassignedOpcodesAreRejected : [0x03000000, 0x0FFFFFFF, 0x13000000, 0x3FFFFFFF, 0x44000000, 0x4E000000,
    0x50000000, 0xFF000000].all (fun w => decide (opField w ∉ assignedOpcodes)) = true := by decide

theorem witness_ReservedBitsAreRejected :
    (opField 0x40000002 = Mnemonic.buildBegin.opcode ∧
      (0x40000002 : Word) &&& Mnemonic.buildBegin.format.reservedMask ≠ 0) ∧
    (opField 0x22800000 = Mnemonic.dinPush2.opcode ∧
      (0x22800000 : Word) &&& Mnemonic.dinPush2.format.reservedMask ≠ 0) ∧
    (opField 0x00800000 = 0x00 ∧ (0x00800000 : Word) ≠ 0x00000000) := by decide

theorem witness_AssemblyNeverTruncates :
    assemble ⟨.command .buildBlock, [0xFFFF, 0xFF]⟩ = some [.buildBlock 0xFFFF 0xFF] ∧
    assemble ⟨.pseudo .complete, [3, 255]⟩ = some [.dinClear, .dinPush1 0xFF, .buildComplete 3] := by decide

theorem witness_StepRunsTheDecodedCommand :
    (facing setupQ (hostWrite 0x000 0x41101000)).accesses = hostWrite 0x000 0x41101000 :: [] ∧
    decode 0x41101000 = .ok (.buildBlock 0x1000 0x10) := ⟨rfl, by decide⟩

theorem witness_RejectionRecordsTheFirstCode :
    (facing setupQ (hostWrite 0x000 0xFF000000)).accesses = hostWrite 0x000 0xFF000000 :: [] ∧
    (∃ t, execute 0x41FF0FFF (withEngine (framed setupP)) = .next t ∧ t.engine.lastRej = true) ∧
    (∃ t, execute 0xFF000000 (withEngine (framed setupP)) = .next t ∧ t.engine.lastRej = true) :=
  ⟨rfl, ⟨_, rfl, rfl⟩, ⟨_, rfl, rfl⟩⟩

/-- An outcome is a next state that was rejected, from an engine with no rejection recorded. -/
def rejectedFrom (e : Engine) (i : Instr) : Bool :=
  !e.err && (match exec i (withEngine e) with
    | .next t => t.engine.lastRej
    | .fault _ => false
    | .refused _ => false)

theorem witness_RejectionCodesAndTheirCauses :
    rejectedFrom (staged 0 (zeros 128)) (.dinPush1 0x01) = true ∧ rejectedFrom setupQ (.buildBlock 0x0FFF 0x80) = true ∧
    rejectedFrom setupQ (.buildBlockV 0x7FFF 0x81) = true ∧ rejectedFrom setupQ (.buildBegin 1) = true ∧
    rejectedFrom setupQ (.buildComplete 0x02) = true ∧
    decode 0x40000002 = .error (.reservedNonzero .buildBegin) := by decide +kernel

theorem witness_FirstFailedCheckIsRecorded :
    setupQ.err = false ∧ opField 0x03000000 ∉ assignedOpcodes ∧
    (opField 0x43010000 = Mnemonic.buildComplete.opcode ∧
      (0x43010000 : Word) &&& Mnemonic.buildComplete.format.reservedMask ≠ 0) ∧
    ((0x0FFF : Half) < 0x1000 ∧ (0x7FFF : Half) < 0x8000 ∧ (0x1000 : Half) ≤ 0x1000 ∧ (0x1000 : Half) ≤ 0x7FFF ∧
      (0x80 : Byte) < 0x81) ∧
    setupQ.dinCnt.val ≠ 14 ∧ ((0x02 : Byte) ≠ 0x00 ∧ (0x02 : Byte) ≠ 0x01 ∧ (0x02 : Byte) ≠ 0x03) ∧
    (128 < (staged 0 (zeros 126)).dinCnt.val + 3 ∧ (staged 0 (zeros 126)).err = false) ∧
    rejectedFrom setupQ (.buildBlock 0x0FFF 0xFF) = true := by decide +kernel

theorem witness_FirstFailedCheck_next :
    (∃ t, exec (.dinPush3 0x01 0x02 0x03) (withEngine (staged 0 (zeros 126))) = .next t) ∧
    (∃ t, execute 0x03000000 (withEngine setupQ) = .next t) ∧ (∃ t, execute 0x43010000 (withEngine setupQ) = .next t) ∧
    (∃ t, execute 0x41FF0FFF (withEngine setupQ) = .next t) :=
  ⟨⟨_, rfl⟩, ⟨_, rfl⟩, ⟨_, rfl⟩, ⟨_, rfl⟩⟩

theorem witness_CommandsChangeOnlyTheirElements :
    (∃ t, exec (.dinPush1 0x01) (withEngine setupQ) = .next t ∧ t.engine.lastRej = false) ∧
    Mnemonic.dinPush1 ∉ [Mnemonic.crcInit, .crcByte, .crcDin, .softReset] ∧
    Mnemonic.dinPush1 ∉ [Mnemonic.sidLo, .sidHi, .softReset] ∧
    Mnemonic.sidHi ∉ [Mnemonic.dinClear, .dinPush1, .dinPush2, .dinPush3, .softReset] ∧
    Mnemonic.dinPush1 ∉ [Mnemonic.buildBegin, .buildBlock, .buildBlockV, .buildComplete, .frameClear, .softReset] ∧
    Mnemonic.dinPush1 ∉ [Mnemonic.errClear, .softReset] :=
  ⟨⟨_, rfl, rfl⟩, by decide⟩

theorem witness_SoftResetGivesTheResetState :
    (∃ t, exec .softReset (withEngine (framed setupP)) = .next t) ∧ Instr.sidLo 0x5678 ≠ .softReset ∧
    (∃ t, exec (.sidLo 0x5678) (withEngine (framed setupP)) = .next t ∧ t.engine.lastRej = false) :=
  ⟨⟨_, rfl⟩, by decide, ⟨_, rfl, rfl⟩⟩

theorem witness_CrcInitStartsACrc : ∃ t, exec .crcInit (withEngine setupQ) = .next t := ⟨_, rfl⟩

/-- A word of each opcode that has reserved bits, with one of them set: the hypotheses of `ReservedRejected`. -/
theorem witness_ReservedRejected :
    [((0x00800000 : Word), (0x00 : Byte), (0x00FFFFFF : Word)), (0x01000001, 0x01, 0x00FFFFFF),
     (0x02000001, 0x02, 0x00FFFFFF), (0x10000100, 0x10, 0x00FFFFFF), (0x11000131, 0x11, 0x00FFFF00),
     (0x12000001, 0x12, 0x00FFFFFF), (0x20000001, 0x20, 0x00FFFFFF), (0x21000100, 0x21, 0x00FFFF00),
     (0x22010000, 0x22, 0x00FF0000), (0x30010000, 0x30, 0x00FF0000), (0x31010000, 0x31, 0x00FF0000),
     (0x40000002, 0x40, 0x00FFFFFE), (0x43000100, 0x43, 0x00FFFF00), (0x4F000001, 0x4F, 0x00FFFFFF)].all
      (fun p => opField p.1 == p.2.1 && p.1 &&& p.2.2 != 0) = true := by decide

theorem witness_CrcRoundIsTheReflectedDivision :
    (0x00000001 : Word).reverse.msb = true ∧ (0x00000002 : Word).reverse.msb = false := by decide +kernel

theorem witness_CrcByteFoldsOneByteIn : crcUpdate 0x00000000 0x00 = 0x00000000 := by decide +kernel

theorem witness_CrcDinFoldsTheStagedBytesIn : ∀ bytes ∈ [zeros 128, zeros 72], bytes.length ≤ 128 := by decide +kernel

theorem witness_CrcUpdateIsAnAdditiveBijection : (Instr.crcByte 0xFF).mnemonic ∈ [Mnemonic.crcInit, .crcByte, .crcDin] := by
  decide

theorem witness_StreamingCrcFollowsTheBytesFed :
    (facing { Engine.reset with crc := 0x7C231048 } (hostWrite 0x000 0x11000031)).engine.crc = crcFold 0xFFFFFFFF [0x31] ∧
    ∃ t, step (facing { Engine.reset with crc := 0x7C231048 } (hostWrite 0x000 0x11000031)) = .next t :=
  ⟨by decide +kernel, _, rfl⟩

theorem witness_PushesAppendAllOrNothing :
    (staged 0 (zeros 127)).dinCnt.val + [(0x01 : Byte)].length ≤ 128 ∧
    (staged 0 (zeros 125)).dinCnt.val + [(0x01 : Byte), 0x02, 0x03].length ≤ 128 ∧
    128 < (staged 0 (zeros 127)).dinCnt.val + [(0x01 : Byte), 0x02].length ∧
    128 < (staged 0 (zeros 128)).dinCnt.val + [(0x01 : Byte)].length := by decide +kernel

theorem witness_BuildBeginBuildsTheBeginFrame :
    setupP.dinCnt.val = 14 ∧ (staged 0 (zeros 13)).dinCnt.val ≠ 14 ∧ (staged 0 (zeros 15)).dinCnt.val ≠ 14 := by decide

theorem witness_block_ranges : ((0x1000 : Half) ≤ 0x1000 ∧ (0x7FFF : Half) ≤ 0x7FFF ∧ (0x80 : Byte) ≤ 0x80) ∧
    ((0x0FFF : Half) < 0x1000 ∧ (0x7FFF : Half) < 0x8000) ∧ (0x80 : Byte) < 0x81 := by decide

theorem witness_stagingClean : setupQ.StagingClean ∧ (staged 0 (zeros 121)).StagingClean := by
  unfold Engine.StagingClean
  decide +kernel

theorem witness_BuildBlockVBuildsTheVerifyFrame :
    (∃ t, exec (.buildBlock 0x7FFF 0x80) (withEngine setupQ) = .next t) ∧
    (∃ t, exec (.buildBlockV 0x7FFF 0x80) (withEngine setupQ) = .next t) := ⟨⟨_, rfl⟩, ⟨_, rfl⟩⟩

theorem witness_BuildCompleteBuildsTheCompleteFrame :
    ((0x03 : Byte) = 0x00 ∨ (0x03 : Byte) = 0x01 ∨ (0x03 : Byte) = 0x03) ∧
    ((0x02 : Byte) ≠ 0x00 ∧ (0x02 : Byte) ≠ 0x01 ∧ (0x02 : Byte) ≠ 0x03) ∧
    ((0x04 : Byte) ≠ 0x00 ∧ (0x04 : Byte) ≠ 0x01 ∧ (0x04 : Byte) ≠ 0x03) := by decide

theorem witness_NoStaleFrameSurvivesABuild :
    opField 0x40000002 ∈ buildOpcodes ∧ opField 0x43000003 ∈ buildOpcodes ∧
    (∃ t, execute 0x40000002 (withEngine (framed setupP)) = .next t) ∧
    (∃ t, execute 0x43000003 (withEngine (framed setupP)) = .next t) :=
  ⟨by decide, by decide, ⟨_, rfl⟩, ⟨_, rfl⟩⟩

theorem witness_FramerIgnoresTheCrcRegister : (Instr.buildComplete 0x03).mnemonic ∈
    [Mnemonic.buildBegin, .buildBlock, .buildBlockV, .buildComplete, .frameClear] := by decide

theorem witness_BuiltFramesCheckThemselves :
    (∃ t, exec (.buildBegin 1) (withEngine setupP) = .next t ∧ t.engine.lastRej = false) ∧
    (∃ t, exec (.buildBlock 0x1000 0x00) (withEngine setupP) = .next t ∧ t.engine.lastRej = false) ∧
    (∃ t, exec (.buildComplete 0x00) (withEngine setupP) = .next t ∧ t.engine.lastRej = false) :=
  ⟨⟨_, rfl, rfl⟩, ⟨_, rfl, rfl⟩, ⟨_, rfl, rfl⟩⟩

theorem witness_FrameIsASnapshot : ∃ t, step (facing (framed setupP) (hostWrite 0x000 0x4F000000)) = .next t := ⟨_, rfl⟩

theorem witness_EveryStepKeepsTheStagingZeros :
    setupQ.StagingClean ∧ ∃ t, step (facing setupQ (hostWrite 0x000 0x210000AB)) = .next t :=
  ⟨witness_stagingClean.1, _, rfl⟩

theorem witness_EveryStepKeepsTheFrameFormed :
    setupQ.FrameClean ∧ ∃ t, step (facing setupQ (hostWrite 0x000 0x41101000)) = .next t :=
  ⟨⟨fun _ => rfl, fun h => absurd h (by decide)⟩, _, rfl⟩

theorem witness_EveryStepKeepsTheRejectionRecord :
    Engine.RecordClean { setupQ with err := true, errcode := 0x07, lastRej := true } ∧
    ∃ t, step (facing { setupQ with err := true, errcode := 0x07, lastRej := true } (hostWrite 0x000 0xFF000000)) = .next t :=
  ⟨by unfold Engine.RecordClean; decide, _, rfl⟩

theorem witness_RecordedRejectionIsSticky :
    ({ setupQ with err := true, errcode := 0x07 } : Engine).err = true ∧
    ∃ t, step (facing { setupQ with err := true, errcode := 0x07 } (hostWrite 0x000 0x02000000)) = .next t :=
  ⟨rfl, _, rfl⟩

theorem witness_HostReadsReturnTheRegisters :
    [0x000, 0x004, 0x008, 0x00C, 0x010, 0x014, 0x0FC, 0x100, 0x188, 0x18C, 0x1FC, 0x200, 0x27C, 0x280, 0x3FC].all
      (fun off : BitVec 10 => off.toNat % 4 == 0 &&
        decide ((facing setupQ (hostRead off)).accesses = hostRead off :: [])) = true ∧
    (0x188 : BitVec 10).toNat = 0x100 + 4 * 34 ∧ (0x27C : BitVec 10).toNat = 0x200 + 4 * 31 ∧
    unmappedOffset (0x014 : BitVec 10).toNat ∧ unmappedOffset (0x1FC : BitVec 10).toNat ∧
    unmappedOffset (0x280 : BitVec 10).toNat := by
  unfold unmappedOffset
  decide +kernel

theorem witness_StatusShowsItsFields : setupQ.FrameClean ∧ setupQ.fvalid = false :=
  ⟨⟨fun _ => rfl, fun h => absurd h (by decide)⟩, rfl⟩

theorem witness_IdentCrcValueAndSessionIdRead :
    (∃ t, exec .crcInit (withEngine setupQ) = .next t) ∧
    (facing Engine.reset (hostRead 0x010)).accesses = hostRead 0x010 :: [] ∧
    (facing Engine.reset (hostRead 0x008)).accesses = hostRead 0x008 :: [] ∧
    (facing Engine.reset (hostRead 0x00C)).accesses = hostRead 0x00C :: [] ∧
    Engine.reset.crc = crcFold 0xFFFFFFFF [] := ⟨⟨_, rfl⟩, rfl, rfl, rfl, rfl⟩

theorem witness_WindowsShowTheLowestByteLowest :
    setupQ.FrameClean ∧ setupQ.fvalid = false ∧ setupQ.StagingClean ∧ setupQ.dinCnt.val ≤ 4 * (2 : Fin 32).val :=
  ⟨witness_StatusShowsItsFields.1, rfl, witness_stagingClean.1, by decide⟩

theorem witness_BusErrorsAreExactlyThoseListed :
    isBusError ⟨0x000, 4, 1, .read⟩ ∧ isBusError ⟨0x3FC, 4, 1, .read⟩ ∧ isBusError ⟨0x000, 4, 2, .write 0⟩ ∧
    ¬ isBusError ⟨0x000, 4, 1, .write 0⟩ ∧ ¬ isBusError ⟨0x188, 4, 1, .read⟩ ∧ ¬ isBusError ⟨0x200, 4, 1, .read⟩ := by
  simp [isBusError, unmappedOffset]

theorem witness_BusErrors_of_writes : isBusError ⟨0x004, 4, 1, .write 0⟩ := .inr (.inr (.inl ⟨⟨0, rfl⟩, by decide⟩))

theorem witness_WindowAccessesForEveryBase :
    0x40000400 % 0x400 = 0 ∧ 0x40000400 ≤ 0x400007FC ∧ 0x400007FC < 0x40000400 + 0x400 ∧ 0x400007FC % 4 = 0 ∧
    ¬ (4 = 4 ∧ 1 = 1 ∧ 0x400007FD % 4 = 0) ∧ 0x400003FF < 0x40000400 ∧ 0x40000400 + 0x400 ≤ 0x40000800 := by decide

theorem witness_OnlyCommandsAndResetsChangeTheEngine :
    (facing setupQ (hostWrite 0x000 0x20000000)).accesses = hostWrite 0x000 0x20000000 :: [] ∧
    (facing setupQ (hostWrite 0x3FC 0x20000000)).accesses = hostWrite 0x3FC 0x20000000 :: [] ∧
    ∃ t, step (facing setupQ (hostWrite 0x000 0x20000000)) = .next t ∧ t.engine ≠ setupQ :=
  ⟨rfl, rfl, _, rfl, by decide +kernel⟩

theorem witness_ReadsHaveNoSideEffectsAndWritesDo :
    { State.reset with accesses := [hostRead 0x004, hostWrite 0x3FC 0, hostRead 0x188, hostRead 0x004] }.accesses =
      hostRead 0x004 :: ([hostWrite 0x3FC 0, hostRead 0x188] ++ hostRead 0x004 :: []) ∧
    issuesNoCommand (hostRead 0x004) ∧ (∀ x ∈ [hostWrite 0x3FC 0, hostRead 0x188], issuesNoCommand x) ∧
    (∀ w, HostAccess.route Config.base (.window ⟨0x004, 4, 1, .read⟩) = some w → w.kind = .read) ∧
    (staged 0 (zeros 126)).dinCnt.val + 2 ≤ 128 := by
  refine ⟨rfl, ⟨rfl, by decide⟩, ?_, ?_, by decide +kernel⟩
  · simp only [List.mem_cons, List.not_mem_nil, or_false, forall_eq_or_imp, forall_eq]
    exact ⟨⟨rfl, by decide⟩, ⟨rfl, by decide⟩⟩
  · rintro w ⟨⟩
    rfl

theorem witness_HardwareResetGivesTheStatedValues :
    (facing (framed setupP) .reset).accesses = .reset :: [] ∧
    ∃ t, exec .softReset (withEngine (framed setupP)) = .next t := ⟨rfl, _, rfl⟩

theorem witness_ResetOverlappingAnAccessLosesItsEffects :
    (facing setupP (.resetDuring (.window ⟨0x004, 4, 1, .read⟩))).accesses =
      .resetDuring (.window ⟨0x004, 4, 1, .read⟩) :: [] ∧
    HostAccess.route Config.base (.window ⟨0x004, 4, 1, .read⟩) = some ⟨0x004, 4, 1, .read⟩ ∧
    target? ⟨0x004, 4, 1, .read⟩ = some (.read .status) := ⟨rfl, rfl, by decide⟩

theorem witness_DinLoadStagesExactlyItsBytes : (zeros 128).length ≤ 128 := by decide +kernel

theorem witness_CrcOfAndSidSetLeaveTheirValues : [(0x31 : Byte)].length ≤ 128 := by decide

theorem witness_FrameSequencesBuildTheirFrames : (zeros 14).length = 14 ∧ (zeros 121).length ≤ 128 := by decide

end Sys2Proof.Machine.Tests
end

/-! SUPPORT. Reading a register by a step (R52), and the three read-only registers of R31 to R33. -/

namespace Sys2Proof.Machine

variable {s t : State} {rest : List HostEvent} {off : BitVec 10} {r : Register}

/-- A single aligned word read of a register's offset is a read of that register (R52, R54). -/
theorem target?_wordRead (ha : off.toNat % 4 = 0) (hr : registerAt off = some (.reg r)) :
    target? { off := off, bytes := 4, beats := 1, kind := .read } = some (.read r) := by
  simp [target?, WindowAccess.isWordAccess, ha, hr]

/-- A step that takes a window access performs it, wherever `BASE` lies. -/
theorem step_window {a : WindowAccess} (h : s.accesses = .access (.window a) :: rest) :
    step s = performWindow a { s with accesses := rest } := by
  rw [step, serveNext, h]
  rfl

/-- A step that reads a register answers with its word and leaves the engine as it was (R52, R58). -/
theorem step_hostRead (ha : off.toNat % 4 = 0) (hr : registerAt off = some (.reg r))
    (h : s.accesses = hostRead off :: rest) :
    step s = .next { s with accesses := rest, response := some (.readData (readRegister r s.engine)) } := by
  rw [step_window h, performWindow, target?_wordRead ha hr]
  rfl

theorem registerAt_crcValue : registerAt 0x008 = some (.reg .crcValue) := by decide

theorem registerAt_sessionId : registerAt 0x00C = some (.reg .sessionId) := by decide

theorem registerAt_ident : registerAt 0x010 = some (.reg .ident) := by decide

/-- CRC_VALUE is the CRC-32 of the bytes folded into the running value from its initial one (R32). -/
theorem readRegister_crcValue_of_fold {e : Engine} {fed : List Byte} (h : e.crc = crcFold crcInitValue fed) :
    readRegister .crcValue e = crc32 fed := by
  rw [readRegister, h, crc32]

/-- CRC_INIT leaves the running value at its initial one (R106). -/
theorem execCrcInit_crc (h : exec .crcInit s = .next t) : t.engine.crc = crcInitValue := by
  rw [perform_next h, State.onEngine_engine]
  rfl

/-- Settles O45: a step's read of a register, at the three offsets, and CRC_VALUE as the CRC-32 of the bytes fed, which
after reset and after CRC_INIT are none. -/
theorem identCrcValueAndSessionIdRead : Obligations.IdentCrcValueAndSessionIdRead := by
  refine ⟨⟨rfl, readRegister_crcValue_of_fold (fed := []) rfl, rfl⟩, ?_, ?_⟩
  · intro s t h
    exact readRegister_crcValue_of_fold (fed := []) (execCrcInit_crc h)
  · intro s rest
    refine ⟨step_hostRead (by decide) registerAt_ident, fun h => ?_, step_hostRead (by decide) registerAt_sessionId⟩
    have hread := step_hostRead (by decide) registerAt_crcValue h
    refine ⟨hread, fun fed hfed => ?_⟩
    rw [hread, readRegister_crcValue_of_fold hfed]

end Sys2Proof.Machine

/-! SUPPORT. What stands at an offset (R28), and which window accesses are bus errors and which are commands (R53,
R54). -/

namespace Sys2Proof.Machine

variable {off : BitVec 10} {a : WindowAccess} {w : Word} {k : Nat}

theorem WindowAccess.isWordAccess_iff : a.isWordAccess = true ↔ a.bytes = 4 ∧ a.beats = 1 ∧ a.off.toNat % 4 = 0 := by
  simp [WindowAccess.isWordAccess, and_assoc]

/-- CMD stands at offset 0 alone (R28). -/
theorem registerAt_eq_cmd_iff : registerAt off = some .cmd ↔ off = 0x000 := by
  constructor
  · intro h
    simp only [registerAt] at h
    split_ifs at h with h0
    · exact BitVec.eq_of_toNat_eq h0
    all_goals cases h
  · rintro rfl
    rfl

theorem registerAt_status : registerAt 0x004 = some (.reg .status) := by decide

theorem registerAt_frame (hk : k < 35) (h : off.toNat = 0x100 + 4 * k) :
    registerAt off = some (.reg (.frame ⟨k, hk⟩)) := by
  simp only [registerAt, h]
  iterate 5 rw [if_neg (by omega)]
  rw [dif_pos (by omega)]
  simp

theorem registerAt_din (hk : k < 32) (h : off.toNat = 0x200 + 4 * k) :
    registerAt off = some (.reg (.din ⟨k, hk⟩)) := by
  simp only [registerAt, h]
  iterate 5 rw [if_neg (by omega)]
  rw [dif_neg (by omega), dif_pos (by omega)]
  simp

/-- The unmapped offsets are those outside the map (R28, R36). -/
theorem registerAt_eq_none_iff (ha : off.toNat % 4 = 0) : registerAt off = none ↔ unmappedOffset off.toNat := by
  have hlt := off.isLt
  simp only [registerAt, unmappedOffset]
  split_ifs <;> simp only [false_iff, true_iff] <;> omega

/-- The bus errors are those of R54. -/
theorem target?_eq_none_iff : target? a = none ↔ isBusError a := by
  unfold target? isBusError
  by_cases hw : a.isWordAccess = true
  · have hword := WindowAccess.isWordAccess_iff.mp hw
    rw [if_pos hw, ← registerAt_eq_none_iff hword.2.2, ne_eq, ← registerAt_eq_cmd_iff]
    cases registerAt a.off with
    | none => simp
    | some m => cases m <;> cases a.kind <;> simp [hword]
  · rw [if_neg hw]
    exact ⟨fun _ => .inl (WindowAccess.isWordAccess_iff.not.mp hw), fun _ => rfl⟩

/-- A command is a single aligned 32-bit write to CMD (R53). -/
theorem target?_eq_command_iff : target? a = some (.command w) ↔
    (a.bytes = 4 ∧ a.beats = 1 ∧ a.off.toNat % 4 = 0) ∧ a.off = 0x000 ∧ a.kind = .write w := by
  unfold target?
  rw [← WindowAccess.isWordAccess_iff, ← registerAt_eq_cmd_iff]
  split_ifs with hw
  · cases registerAt a.off with
    | none => simp
    | some m => cases m <;> cases a.kind <;> simp [hw]
  · simp [hw]

/-- No read is a command. -/
theorem target?_read_ne_command (h : a.kind = .read) : target? a ≠ some (.command w) := by
  simp [target?_eq_command_iff, h]

end Sys2Proof.Machine

/-! SUPPORT. What the engine answers, and what a step does that takes an access (R52, R53, R58, R186). -/

namespace Sys2Proof.Machine

variable {s t : State} {rest : List HostEvent} {off : BitVec 10} {r : Register} {a : WindowAccess} {h : HostAccess}
  {w : Word}

/-- Every command changes at most the engine, and the machine goes on. -/
theorem exec_eq_perform (i : Instr) (s : State) : ∃ f, exec i s = perform f s := by
  cases i <;> exact ⟨_, rfl⟩

/-- Every command word changes at most the engine, and the machine goes on. -/
theorem execute_next (w : Word) (s : State) : ∃ f, execute w s = .next (s.onEngine f) := by
  obtain ⟨i, -, hx⟩ | ⟨_, -, hx⟩ | ⟨_, -, hx⟩ := execute_cases w s
  · obtain ⟨f, hf⟩ := exec_eq_perform i s
    exact ⟨f, hx.trans hf⟩
  · exact ⟨_, hx⟩
  · exact ⟨_, hx⟩

/-- The answer to an access to the window, by the engine before it. -/
def windowAnswer (a : WindowAccess) (e : Engine) : Response :=
  match target? a with
  | none => .busError
  | some (.read r) => .readData (readRegister r e)
  | some (.command _) => .writeDone

theorem windowAnswer_busError (ha : isBusError a) (e : Engine) : windowAnswer a e = .busError := by
  rw [windowAnswer, target?_eq_none_iff.mpr ha]

theorem windowAnswer_wordRead (ha : off.toNat % 4 = 0) (hr : registerAt off = some (.reg r)) (e : Engine) :
    windowAnswer { off := off, bytes := 4, beats := 1, kind := .read } e = .readData (readRegister r e) := by
  rw [windowAnswer, target?_wordRead ha hr]

/-- An access that is no bus error is answered with a value or as a completed write. -/
theorem windowAnswer_of_not_busError (ha : ¬ isBusError a) (e : Engine) :
    windowAnswer a e = .writeDone ∨ ∃ v, windowAnswer a e = .readData v := by
  unfold windowAnswer
  cases htgt : target? a with
  | none => exact absurd (target?_eq_none_iff.mp htgt) ha
  | some target =>
    cases target with
    | read r => exact .inr ⟨_, rfl⟩
    | command w => exact .inl rfl

/-- A window access that gives no command changes the response only. -/
theorem performWindow_of_noCommand (hn : ∀ w, target? a ≠ some (.command w)) (s : State) :
    performWindow a s = .next (s.respond (windowAnswer a s.engine)) := by
  unfold windowAnswer
  obtain ⟨htgt, hp⟩ | ⟨r, htgt, hp⟩ | ⟨w, htgt, -⟩ := performWindow_cases a s
  · rw [hp, htgt]
  · rw [hp, htgt]
  · exact absurd htgt (hn w)

/-- A command runs its word and completes (R53, R181). -/
theorem performWindow_of_command (hc : target? a = some (.command w)) (s : State) :
    ∃ f, execute w s = .next (s.onEngine f) ∧ performWindow a s = .next ((s.onEngine f).respond .writeDone) := by
  obtain ⟨f, hf⟩ := execute_next w s
  refine ⟨f, hf, ?_⟩
  rw [performWindow, hc]
  exact answerWrite_next hf

/-- Every window access is answered by `windowAnswer` of the engine before it. -/
theorem performWindow_response (a : WindowAccess) (s : State) :
    ∃ t, performWindow a s = .next t ∧ t.response = some (windowAnswer a s.engine) := by
  by_cases hc : ∃ w, target? a = some (.command w)
  · obtain ⟨w, hc⟩ := hc
    obtain ⟨f, -, hp⟩ := performWindow_of_command hc s
    exact ⟨_, hp, by simp [windowAnswer, hc]⟩
  · exact ⟨_, performWindow_of_noCommand (not_exists.mp hc) s, rfl⟩

/-- A bus error changes no engine state (R54, R186). -/
theorem step_busError (hs : s.accesses = .access (.window a) :: rest) (ha : isBusError a) :
    step s = .next { s with accesses := rest, response := some .busError } := by
  have hnone := target?_eq_none_iff.mpr ha
  rw [step_window hs, performWindow_of_noCommand (by simp [hnone]), windowAnswer_busError ha]
  rfl

/-- A single aligned 32-bit read is answered by `windowAnswer` and changes nothing but the response (R52, R58). -/
theorem step_hostRead_answer (hs : s.accesses = hostRead off :: rest) :
    step s = .next { s with
      accesses := rest
      response := some (windowAnswer { off := off, bytes := 4, beats := 1, kind := .read } s.engine) } := by
  rw [step_window hs, performWindow_of_noCommand fun _ => target?_read_ne_command rfl]
  rfl

/-! Accesses that give no command, wherever `BASE` lies (R58). -/

/-- An access gives the command that its window access, if it has one, gives. -/
theorem commandWord_access_eq_some_iff : commandWord (.access h) = some w ↔
    ∃ a, h.route Config.base = some a ∧ target? a = some (.command w) := by
  simp only [commandWord]
  cases h.route Config.base with
  | none => simp
  | some a =>
    cases htgt : target? a with
    | none => simp [htgt]
    | some target => cases target <;> simp [htgt]

/-- What issues no command is an access whose window access, if it has one, gives no command. -/
theorem issuesNoCommand_access_iff : issuesNoCommand (.access h) ↔
    ∀ a, h.route Config.base = some a → ∀ w, target? a ≠ some (.command w) := by
  simp only [issuesNoCommand, isHardwareReset, true_and, Option.eq_none_iff_forall_ne_some, ne_eq,
    commandWord_access_eq_some_iff, not_exists, not_and]
  exact ⟨fun hn a ha w => hn w a ha, fun hn w a ha => hn a ha w⟩

/-- A reset is no event of R58. -/
theorem access_of_issuesNoCommand {ev : HostEvent} (hn : issuesNoCommand ev) : ∃ h, ev = .access h := by
  obtain ⟨hreset, -⟩ := hn
  cases ev with
  | access h => exact ⟨h, rfl⟩
  | reset => simp [isHardwareReset] at hreset
  | resetDuring h => simp [isHardwareReset] at hreset

/-- The answer to an access, by the engine before it; none where the access does not reach the engine (R51). -/
def accessAnswer (h : HostAccess) (e : Engine) : Option Response :=
  (h.route Config.base).map fun a => windowAnswer a e

/-- A step whose access is no command changes nothing but the access list and the response (R58). -/
theorem step_of_noCommand (hs : s.accesses = .access h :: rest) (hn : issuesNoCommand (.access h)) :
    step s = .next { s with accesses := rest, response := accessAnswer h s.engine } := by
  rw [step, serveNext, hs]
  show performAccess h { s with accesses := rest } = _
  unfold performAccess accessAnswer
  cases hroute : h.route Config.base with
  | none => rfl
  | some a => exact performWindow_of_noCommand (issuesNoCommand_access_iff.mp hn a hroute) _

/-- A run takes its first step first. -/
theorem run_succ (hs : step s = .next t) (k : Nat) :
    Host.Core.run Sys2Proof.core (k + 1) s = Host.Core.run Sys2Proof.core k t := by
  have hcore : Sys2Proof.core.step s = .next t := hs
  simp only [Host.Core.run, hcore]

/-- After any number of accesses that are no command, the next such access is answered by the engine as it was. -/
theorem run_of_noCommands (between : List HostEvent) (hq : ∀ x ∈ between, issuesNoCommand x)
    (hn : issuesNoCommand (.access h)) (hs : s.accesses = between ++ .access h :: rest) :
    Host.Core.run Sys2Proof.core (between.length + 1) s =
      .next { s with accesses := rest, response := accessAnswer h s.engine } := by
  induction between generalizing s with
  | nil => exact run_succ (step_of_noCommand hs hn) 0
  | cons x xs ih =>
    obtain ⟨hx, hxs⟩ := List.forall_mem_cons.mp hq
    obtain ⟨h', rfl⟩ := access_of_issuesNoCommand hx
    exact (run_succ (step_of_noCommand hs hx) _).trans (ih hxs rfl)

/-! Two commands that are not idempotent (R58). -/

/-- CRC_BYTE folds its byte in (R107). -/
theorem exec_crcByte_eq (b0 : Byte) (s : State) : exec (.crcByte b0) s =
    .next { s with engine := { s.engine with crc := crcUpdate s.engine.crc b0, lastRej := false } } := rfl

/-- DIN_PUSH1 appends its byte where it fits (R122, R123). -/
theorem exec_dinPush1_fits (b0 : Byte) (hfit : s.engine.dinCnt.val + 1 ≤ Config.dinCap) :
    ∃ t, exec (.dinPush1 b0) s = .next t ∧ t.engine.dinCnt.val = s.engine.dinCnt.val + 1 ∧
      t.engine.din = writeBytes s.engine.din s.engine.dinCnt.val [b0] := by
  have hcmd := Engine.command_ok (Engine.push_fits (bytes := [b0]) hfit)
  refine ⟨s.onEngine (Engine.command (Engine.push [b0])), rfl, ?_, ?_⟩ <;> rw [State.onEngine_engine, hcmd] <;> rfl

/-- DIN_PUSH1 twice, where both fit, appends its byte twice. -/
theorem execAll_dinPush1_twice (b0 : Byte) (hfit : s.engine.dinCnt.val + 2 ≤ Config.dinCap) :
    ∃ t, execAll [.dinPush1 b0, .dinPush1 b0] s = .next t ∧ t.engine.dinCnt.val = s.engine.dinCnt.val + 2 ∧
      byteAt t.engine.din s.engine.dinCnt.val = b0 ∧ byteAt t.engine.din (s.engine.dinCnt.val + 1) = b0 := by
  obtain ⟨t, ht, htcnt, htdin⟩ := exec_dinPush1_fits (s := s) b0 (by omega)
  obtain ⟨u, hu, hucnt, hudin⟩ := exec_dinPush1_fits (s := t) b0 (by omega)
  refine ⟨u, by simp only [execAll, ht, hu], by omega, ?_, ?_⟩
  · rw [hudin, htcnt, byteAt_writeBytes_outside _ _ (.inl (by omega)), htdin, byteAt_writeBytes,
      if_pos (by simp; omega)]
    simp
  · rw [hudin, htcnt, byteAt_writeBytes, if_pos (by simp; omega)]
    simp

end Sys2Proof.Machine

/-! SUPPORT. The statements about the host's accesses (R52, R53, R54, R58). -/

namespace Sys2Proof.Machine

/-- Settles O43: the read is answered by what stands at its offset, and each range of the map is one register or none. -/
theorem hostReadsReturnTheRegisters : Obligations.HostReadsReturnTheRegisters := by
  intro s rest off hs ha
  refine ⟨_, step_hostRead_answer hs, ?_, ?_, ?_, ?_, ?_, ?_, ?_⟩
  · rintro rfl
    exact windowAnswer_wordRead ha registerAt_status _
  · rintro rfl
    exact windowAnswer_wordRead ha registerAt_crcValue _
  · rintro rfl
    exact windowAnswer_wordRead ha registerAt_sessionId _
  · rintro rfl
    exact windowAnswer_wordRead ha registerAt_ident _
  · intro k hk hoff
    exact windowAnswer_wordRead ha (registerAt_frame hk hoff) _
  · intro k hk hoff
    exact windowAnswer_wordRead ha (registerAt_din hk hoff) _
  · rintro (hcmd | hun)
    · exact windowAnswer_busError (.inr (.inl ⟨rfl, hcmd⟩)) _
    · exact windowAnswer_busError (.inr (.inr (.inr hun))) _

/-- Settles O47: an access has no target exactly by the causes of R54, and one that has is answered. -/
theorem busErrorsAreExactlyThoseListed : Obligations.BusErrorsAreExactlyThoseListed := by
  intro s rest a hs
  refine ⟨step_busError hs, fun ha => ?_⟩
  obtain ⟨t, ht, hresp⟩ := performWindow_response a { s with accesses := rest }
  refine ⟨t, (step_window hs).trans ht, ?_⟩
  simpa [hresp] using windowAnswer_of_not_busError ha s.engine

/-- Settles O49: an event that changes the engine is a reset, or issues a command, which is a single aligned 32-bit write
to CMD. -/
theorem onlyCommandsAndResetsChangeTheEngine : Obligations.OnlyCommandsAndResetsChangeTheEngine := by
  refine ⟨fun s rest off w hs => ⟨?_, fun hoff => ?_⟩, fun s t ht hne => ?_⟩
  · rintro rfl
    have hcmd : target? ⟨0x000, 4, 1, .write w⟩ = some (.command w) := target?_eq_command_iff.mpr ⟨⟨rfl, rfl, rfl⟩, rfl, rfl⟩
    obtain ⟨f, hexec, hp⟩ := performWindow_of_command hcmd { s with accesses := rest }
    exact ⟨_, hexec, (step_window hs).trans hp⟩
  · exact step_busError hs (.inr (.inr (.inl ⟨⟨w, rfl⟩, hoff⟩)))
  · cases hs : s.accesses with
    | nil =>
      rw [step, serveNext, hs] at ht
      cases ht
      exact absurd rfl hne
    | cons ev rest =>
      refine ⟨ev, rest, rfl, ?_⟩
      cases ev with
      | reset => exact .inl rfl
      | resetDuring h => exact .inl rfl
      | access h =>
        right
        cases hword : commandWord (.access h) with
        | none =>
          rw [step_of_noCommand hs ⟨rfl, hword⟩] at ht
          cases ht
          exact absurd rfl hne
        | some w =>
          obtain ⟨a, hroute, htgt⟩ := commandWord_access_eq_some_iff.mp hword
          obtain ⟨⟨hbytes, hbeats, -⟩, hoff, hkind⟩ := target?_eq_command_iff.mp htgt
          exact ⟨h, a, w, rfl, hroute, hkind, hoff, hbytes, hbeats⟩

/-- Settles O50: an access that is no command is answered by the engine alone, which it leaves as it was; CRC_BYTE and
DIN_PUSH1 act again when given again. -/
theorem readsHaveNoSideEffectsAndWritesDo : Obligations.ReadsHaveNoSideEffectsAndWritesDo := by
  refine ⟨?_, ?_, ?_, ?_, ?_⟩
  · intro h hread
    exact issuesNoCommand_access_iff.mpr fun a ha _ => target?_read_ne_command (hread a ha)
  · intro s ev rest hs hn
    obtain ⟨h, rfl⟩ := access_of_issuesNoCommand hn
    exact ⟨_, step_of_noCommand hs hn, rfl, rfl⟩
  · intro s ev between rest hs hn hq
    obtain ⟨h, rfl⟩ := access_of_issuesNoCommand hn
    exact ⟨_, _, step_of_noCommand hs hn, run_of_noCommands between hq hn rfl, rfl, rfl⟩
  · intro s b0
    simp only [execAll, exec_crcByte_eq]
  · intro s b0
    exact execAll_dinPush1_twice b0

end Sys2Proof.Machine

/-! SUPPORT. Which words decode, to what, and how a word that does not is rejected (R71, R75 to R78). -/

namespace Sys2Proof.Machine

variable {op : Byte} {m : Mnemonic} {w : Word} {i : Instr}

theorem mem_all_mnemonics (m : Mnemonic) : m ∈ Mnemonic.all := by
  cases m <;> decide

/-- The opcodes R75 lists are those of the 17 commands, in its order. -/
theorem assignedOpcodes_eq : assignedOpcodes = Mnemonic.all.map Mnemonic.opcode := by decide

theorem mnemonicOf?_eq_some_iff : mnemonicOf? op = some m ↔ m.opcode = op := by
  constructor
  · exact opcode_of_mnemonicOf?
  · rintro rfl
    exact mnemonicOf?_opcode m

/-- An opcode stands for no command exactly when R75 does not list it. -/
theorem mnemonicOf?_eq_none_iff : mnemonicOf? op = none ↔ op ∉ assignedOpcodes := by
  simp [mnemonicOf?, assignedOpcodes_eq]

theorem isBuild_iff_opcode (m : Mnemonic) : m.isBuild = true ↔ m.opcode ∈ buildOpcodes := by
  cases m <;> decide

theorem instrOf_mnemonic (m : Mnemonic) (w : Word) : (instrOf m w).mnemonic = m := by
  cases m <;> rfl

/-- What decodes is a word with the command's opcode and no reserved bit, to the command with the word's fields. -/
theorem decode_eq_ok_iff : decode w = .ok i ↔
    opField w = i.mnemonic.opcode ∧ w &&& i.mnemonic.format.reservedMask = 0 ∧ i = instrOf i.mnemonic w := by
  constructor
  · intro h
    cases hm : mnemonicOf? (opField w) with
    | none =>
      rw [decode_of_illegal hm] at h
      cases h
    | some m =>
      by_cases hr : w &&& m.format.reservedMask = 0
      · rw [decode_of_legal hm hr] at h
        cases h
        rw [instrOf_mnemonic]
        exact ⟨(opcode_of_mnemonicOf? hm).symm, hr, rfl⟩
      · rw [decode_of_reserved hm hr] at h
        cases h
  · rintro ⟨hop, hr, hi⟩
    rw [hi]
    exact decode_of_legal (mnemonicOf?_eq_some_iff.mpr hop.symm) hr

/-! Legal instances of a row: `(w AND mask) = match` (R75). -/

/-- The opcode's byte of a word, in its place. -/
theorem and_opMask (w : Word) : w &&& (0xFF000000 : Word) = (opField w).setWidth 32 <<< 24 := by
  apply BitVec.eq_of_getLsbD_eq
  intro k hk
  have hmask : (0xFF000000 : Word).getLsbD k = decide (24 ≤ k) := by
    revert k
    decide
  rw [BitVec.getLsbD_and, hmask]
  by_cases hlo : 24 ≤ k
  · have hbyte : k - 24 < 8 := by omega
    simp [opField, hk, hlo, hbyte]
  · simp [hlo, Nat.lt_of_not_le hlo]

/-- The mask of a row selects the opcode and the reserved bits. -/
theorem legal_iff (m : Mnemonic) (w : Word) :
    w &&& m.legalMask = m.matchWord ↔ opField w = m.opcode ∧ w &&& m.format.reservedMask = 0 := by
  constructor
  · intro h
    have hop : opField (w &&& m.legalMask) = opField w := by
      have hmask : opField m.legalMask = BitVec.allOnes 8 := by cases m <;> decide
      rw [opField, BitVec.extractLsb'_and, ← opField, ← opField, hmask, BitVec.and_allOnes]
    have hres : w &&& m.legalMask &&& m.format.reservedMask = w &&& m.format.reservedMask := by
      have hmask : m.legalMask &&& m.format.reservedMask = m.format.reservedMask := by cases m <;> decide
      rw [BitVec.and_assoc, hmask]
    rw [← hop, ← hres, h]
    cases m <;> decide
  · rintro ⟨hop, hr⟩
    rw [Mnemonic.legalMask, BitVec.and_or_distrib_left, hr, and_opMask, hop]
    exact BitVec.or_zero

/-- The words that decode to a command are the legal instances of its row. -/
theorem decodes_to_iff_legal :
    (∃ i, decode w = .ok i ∧ i.mnemonic = m) ↔ w &&& m.legalMask = m.matchWord := by
  rw [legal_iff]
  constructor
  · rintro ⟨i, h, rfl⟩
    obtain ⟨hop, hr, -⟩ := decode_eq_ok_iff.mp h
    exact ⟨hop, hr⟩
  · rintro ⟨hop, hr⟩
    exact ⟨_, decode_of_legal (mnemonicOf?_eq_some_iff.mpr hop.symm) hr, instrOf_mnemonic m w⟩

/-- The row of R75 that the model's own tables give a command. -/
def rowOf (m : Mnemonic) : OpcodeRow := ⟨m, m.format, m.matchWord, m.legalMask⟩

/-- The opcode map as the spec tabulates it is the model's. -/
theorem opcodeMap_eq : opcodeMap = Mnemonic.all.map rowOf := by decide

/-- NOP's mask covers the whole word, so its one legal word is 0 (R78). -/
theorem nop_legal_iff : w &&& Mnemonic.nop.legalMask = Mnemonic.nop.matchWord ↔ w = 0x00000000 := by
  have hmask : Mnemonic.nop.legalMask = BitVec.allOnes 32 := by decide
  rw [hmask, BitVec.and_allOnes, matchWord_nop]

/-- NOP is the word 0 only (R78). -/
theorem decode_eq_nop_iff : decode w = .ok .nop ↔ w = 0x00000000 := by
  rw [← nop_legal_iff, legal_iff, decode_eq_ok_iff]
  constructor
  · rintro ⟨hop, hr, -⟩
    exact ⟨hop, hr⟩
  · rintro ⟨hop, hr⟩
    exact ⟨hop, hr, rfl⟩

/-! The operand fields (R71). -/

/-- A field of a word is the number that its bits are. -/
theorem toNat_field (w : Word) (lo width : Nat) : (w.extractLsb' lo width).toNat = w.toNat / 2 ^ lo % 2 ^ width := by
  rw [BitVec.extractLsb'_toNat, Nat.shiftRight_eq_div_pow]

/-- The operands a word carries for a command are the fields of the command's format. -/
theorem operandsOf_instrOf (m : Mnemonic) (w : Word) :
    operandsOf (instrOf m w) = (fieldPlaces m.format).map fun p => w.toNat / 2 ^ p.1 % 2 ^ p.2 := by
  simp only [← toNat_field]
  cases m <;> rfl

/-- The reserved bits of a format are the bits below the opcode in none of its fields. -/
theorem reservedMask_bit_iff (f : Format) (k : Nat) : f.reservedMask.getLsbD k = true ↔
    k < 24 ∧ ∀ p ∈ fieldPlaces f, k < p.1 ∨ p.1 + p.2 ≤ k := by
  by_cases hk : k < 32
  · revert k
    cases f <;> decide
  · rw [BitVec.getLsbD_of_ge _ _ (by omega)]
    simp only [Bool.false_eq_true, false_iff]
    omega

/-! Words that decode to no command (R76, R77). -/

theorem execute_of_unassigned (h : opField w ∉ assignedOpcodes) (s : State) :
    execute w s = .next (s.onEngine (Engine.reject .illegalOpcode)) := by
  rw [execute, decode_of_illegal (mnemonicOf?_eq_none_iff.mpr h)]
  rfl

theorem execute_of_reserved (hop : opField w = m.opcode) (hr : w &&& m.format.reservedMask ≠ 0) (s : State) :
    execute w s = .next (s.onEngine fun e => (if m.isBuild then e.discardFrame else e).reject .reservedNonzero) := by
  rw [execute, decode_of_reserved (mnemonicOf?_eq_some_iff.mpr hop.symm) hr]
  rfl

end Sys2Proof.Machine

/-! SUPPORT. The statements about the encoding (R71, R75 to R78). -/

namespace Sys2Proof.Machine

/-- Settles O3: the table is the model's own, row by row, and a word is legal for a row exactly when it has the row's
opcode and no reserved bit, which is when it decodes. -/
theorem legalWordsAreThoseOfTheOpcodeMap : Obligations.LegalWordsAreThoseOfTheOpcodeMap := by
  refine ⟨?_, fun m => ⟨rowOf m, ?_, rfl⟩, by decide, isBuild_iff_opcode⟩
  · rw [opcodeMap_eq]
    intro row hrow
    obtain ⟨m, -, rfl⟩ := List.mem_map.mp hrow
    exact ⟨rfl, rfl, rfl, fun w => decodes_to_iff_legal.symm⟩
  · rw [opcodeMap_eq]
    exact List.mem_map_of_mem (mem_all_mnemonics m)

/-- Settles O4: a decoded instruction carries the word's fields, and the reserved bits are compared bit by bit. -/
theorem operandsAreTheFieldsOfTheirFormat : Obligations.OperandsAreTheFieldsOfTheirFormat := by
  refine ⟨fun w i h => ?_, reservedMask_bit_iff⟩
  obtain ⟨-, -, hi⟩ := decode_eq_ok_iff.mp h
  rw [← operandsOf_instrOf, ← hi]

/-- Settles O5: the decoder finds no command, and 17 of the 256 opcodes have one. -/
theorem unassignedOpcodesAreRejected : Obligations.UnassignedOpcodesAreRejected :=
  ⟨fun _ s h => execute_of_unassigned h s, by decide +kernel⟩

/-- Settles O6: the decoder refuses the word by its command, which tells whether the frame is discarded; for opcode 0
every bit below it is reserved, so that only the word 0 is legal. -/
theorem reservedBitsAreRejected : Obligations.ReservedBitsAreRejected := by
  refine ⟨fun m w s hop hr => ?_, fun w => decode_eq_nop_iff, fun w hop hw => ?_⟩
  · simp only [execute_of_reserved hop hr, State.onEngine, isBuild_iff_opcode]
  · have hr : w &&& Mnemonic.nop.format.reservedMask ≠ 0 := fun hr =>
      hw (nop_legal_iff.mp ((legal_iff _ w).mpr ⟨hop, hr⟩))
    exact decode_of_reserved (mnemonicOf?_eq_some_iff.mpr hop.symm) hr

end Sys2Proof.Machine

/-! SUPPORT. The CRC step as arithmetic over GF(2) (R101, R104): additive under XOR, without a kernel, and with no fixed
point but zero. -/

namespace Sys2Proof.Machine

/-- A map of the register that respects XOR. -/
def XorAdditive (f : Word → Word) : Prop := ∀ c1 c2, f (c1 ^^^ c2) = f c1 ^^^ f c2

/-- A map of the register that no word but zero is a fixed point of. -/
def FixesOnlyZero (f : Word → Word) : Prop := ∀ c, f c = c → c = 0

variable {f : Word → Word} {c d : Word}

theorem XorAdditive.iterate (hf : XorAdditive f) (n : Nat) : XorAdditive f^[n] := by
  induction n with
  | zero => exact fun _ _ => rfl
  | succ n ih =>
    intro c1 c2
    rw [Function.iterate_succ_apply, hf, ih]
    rfl

theorem XorAdditive.map_zero (hf : XorAdditive f) : f 0 = 0 := by
  have h := hf 0 0
  rwa [BitVec.xor_self, BitVec.xor_self] at h

/-- An additive map without a kernel tells words apart: the XOR of two words with one image is in the kernel. -/
theorem XorAdditive.injective (hf : XorAdditive f) (hker : ∀ c, f c = 0 → c = 0) : Function.Injective f := by
  intro c1 c2 h
  apply BitVec.xor_eq_zero_iff.mp
  apply hker
  rw [hf, h, BitVec.xor_self]
  rfl

/-- If `f` twice fixes `c`, then `f` fixes `c XOR f c`, which is therefore zero, and so `f` fixes `c` itself. -/
theorem FixesOnlyZero.iterate_add_self {n : Nat} (h0 : FixesOnlyZero f^[n]) (hf : XorAdditive f) :
    FixesOnlyZero f^[n + n] := by
  intro c hc
  rw [Function.iterate_add_apply] at hc
  apply h0
  have hdiff : c ^^^ f^[n] c = 0 := by
    apply h0
    rw [hf.iterate n, hc, BitVec.xor_comm]
  exact (BitVec.xor_eq_zero_iff.mp hdiff).symm

/-! The round of R101. -/

theorem crcRound_of_bit (h : c.getLsbD 0 = true) : crcRound c = c >>> 1 ^^^ crcReversedPoly := if_pos h

theorem crcRound_of_no_bit (h : c.getLsbD 0 = false) : crcRound c = c >>> 1 :=
  if_neg (Bool.eq_false_iff.mp h)

/-- The rounds that cancel: the constant is XORed in for exactly one of two words, or for none or both of them. -/
theorem crcRound_xorAdditive : XorAdditive crcRound := by
  intro c1 c2
  have hbit : (c1 ^^^ c2).getLsbD 0 = (c1.getLsbD 0 ^^ c2.getLsbD 0) := BitVec.getLsbD_xor
  cases h1 : c1.getLsbD 0 <;> cases h2 : c2.getLsbD 0 <;> rw [h1, h2] at hbit
  · rw [crcRound_of_no_bit hbit, crcRound_of_no_bit h1, crcRound_of_no_bit h2, BitVec.ushiftRight_xor_distrib]
  · rw [crcRound_of_bit hbit, crcRound_of_no_bit h1, crcRound_of_bit h2, BitVec.ushiftRight_xor_distrib,
      BitVec.xor_assoc]
  · rw [crcRound_of_bit hbit, crcRound_of_bit h1, crcRound_of_no_bit h2, BitVec.ushiftRight_xor_distrib]
    ac_rfl
  · rw [crcRound_of_no_bit hbit, crcRound_of_bit h1, crcRound_of_bit h2, BitVec.ushiftRight_xor_distrib,
      BitVec.xor_assoc, BitVec.xor_comm crcReversedPoly, BitVec.xor_assoc, BitVec.xor_self, BitVec.xor_zero]

/-- The top bit of a round tells whether the constant was XORed in, as the shift leaves a 0 there. -/
theorem crcRound_eq_zero (h : crcRound c = 0) : c = 0 := by
  cases hbit : c.getLsbD 0
  · rw [crcRound_of_no_bit hbit] at h
    apply BitVec.eq_of_getLsbD_eq
    intro i hi
    cases i with
    | zero => simpa using hbit
    | succ i => simpa [Nat.add_comm] using congrArg (BitVec.getLsbD · i) h
  · rw [crcRound_of_bit hbit] at h
    have htop := congrArg (BitVec.getLsbD · 31) h
    simp [crcReversedPoly] at htop

/-- Undoing `c XOR (c >> k)`: the same operation once more doubles the shift. -/
theorem xor_shift_double (k : Nat) (h : c ^^^ c >>> k = d) : c ^^^ c >>> (k + k) = d ^^^ d >>> k := by
  subst h
  rw [BitVec.ushiftRight_xor_distrib, BitVec.shiftRight_add, BitVec.xor_assoc, ← BitVec.xor_assoc (c >>> k),
    BitVec.xor_self, BitVec.zero_xor]

/-- A fixed point of the round with bit 0 set would have `c XOR (c >> 1)` equal to the constant, which determines `c`; but
the constant has an even number of bits set, so bit 0 of that word is 0. -/
theorem crcRound_fixesOnlyZero : FixesOnlyZero crcRound := by
  intro c h
  cases hbit : c.getLsbD 0
  · rw [crcRound_of_no_bit hbit] at h
    have hhalf := congrArg BitVec.toNat h
    rw [BitVec.toNat_ushiftRight, Nat.shiftRight_eq_div_pow] at hhalf
    apply BitVec.eq_of_toNat_eq
    show c.toNat = 0
    omega
  · rw [crcRound_of_bit hbit] at h
    have h1 : c ^^^ c >>> 1 = crcReversedPoly := by
      nth_rewrite 1 [← h]
      rw [BitVec.xor_comm, ← BitVec.xor_assoc, BitVec.xor_self, BitVec.zero_xor]
    have h32 := xor_shift_double 16 (xor_shift_double 8 (xor_shift_double 4 (xor_shift_double 2 (xor_shift_double 1 h1))))
    rw [BitVec.ushiftRight_eq_zero (by decide), BitVec.xor_zero] at h32
    rw [h32] at hbit
    exact absurd hbit (by decide)

/-! The byte step of R101. -/

theorem crcRounds_eq_iterate (n : Nat) (c : Word) : crcRounds n c = crcRound^[n] c := by
  induction n generalizing c with
  | zero => rfl
  | succ n ih => exact ih (crcRound c)

theorem crcUpdate_eq_iterate (c : Word) (b : Byte) : crcUpdate c b = crcRound^[8] (c ^^^ b.setWidth 32) :=
  crcRounds_eq_iterate 8 _

/-- The byte step of a zero byte is the eight rounds alone. -/
theorem crcUpdate_zero_byte (c : Word) : crcUpdate c 0x00 = crcRound^[8] c := by
  rw [crcUpdate_eq_iterate, show (0x00 : Byte).setWidth 32 = 0#32 from rfl, BitVec.xor_zero]

theorem crcRound_bijective : Function.Bijective crcRound :=
  Finite.injective_iff_bijective.mp (crcRound_xorAdditive.injective fun _ => crcRound_eq_zero)

theorem xor_const_bijective (d : Word) : Function.Bijective fun c : Word => c ^^^ d :=
  Function.Involutive.bijective fun c => by simp

theorem crcUpdate_bijective (b : Byte) : Function.Bijective fun c => crcUpdate c b := by
  simp only [crcUpdate_eq_iterate]
  exact (crcRound_bijective.iterate 8).comp (xor_const_bijective _)

theorem crcUpdate_zero_byte_xor (c1 c2 : Word) :
    crcUpdate (c1 ^^^ c2) 0x00 = crcUpdate c1 0x00 ^^^ crcUpdate c2 0x00 := by
  simp only [crcUpdate_zero_byte]
  exact crcRound_xorAdditive.iterate 8 c1 c2

/-- One round fixes only zero, so two rounds do, and four, and eight. -/
theorem crcUpdate_zero_byte_fixesOnlyZero : FixesOnlyZero fun c => crcUpdate c 0x00 := by
  have h1 : FixesOnlyZero crcRound^[1] := crcRound_fixesOnlyZero
  have hadd := crcRound_xorAdditive
  have h8 : FixesOnlyZero crcRound^[8] :=
    h1.iterate_add_self hadd |>.iterate_add_self hadd |>.iterate_add_self hadd
  intro c hc
  exact h8 c ((crcUpdate_zero_byte c).symm.trans hc)

/-! The bit-reversed form (R101, 90_conflicts C1). -/

theorem reverse_xor (c d : Word) : (c ^^^ d).reverse = c.reverse ^^^ d.reverse := by
  apply BitVec.eq_of_getLsbD_eq
  intro i hi
  simp [BitVec.getLsbD_reverse, BitVec.getMsbD_xor]

theorem reverse_ushiftRight_one (c : Word) : (c >>> 1).reverse = c.reverse <<< 1 := by
  apply BitVec.eq_of_getLsbD_eq
  intro i hi
  rw [BitVec.getLsbD_shiftLeft, BitVec.getLsbD_reverse, BitVec.getLsbD_reverse, BitVec.getMsbD_ushiftRight]
  simp [hi]

theorem crcReversedPoly_eq_reverse : crcReversedPoly = (0x04C11DB7 : Word).reverse := by decide +kernel

/-- A round, bit-reversed, is a left shift and the normal constant, XORed in for the top bit shifted out. -/
theorem crcRound_reverse (c : Word) : (crcRound c).reverse =
    if c.reverse.msb = true then (c.reverse <<< 1) ^^^ 0x04C11DB7 else c.reverse <<< 1 := by
  rw [BitVec.msb_reverse]
  split
  · next h =>
    rw [crcRound_of_bit h, reverse_xor, reverse_ushiftRight_one, crcReversedPoly_eq_reverse,
      BitVec.reverse_reverse_eq]
  · next h => rw [crcRound_of_no_bit (by simpa using h), reverse_ushiftRight_one]

end Sys2Proof.Machine

/-! SUPPORT. Which commands touch `crc`, and the bytes fed to it (R103, R106 to R108). -/

namespace Sys2Proof.Machine

variable {s t : State} {e : Engine} {i : Instr} {w : Word} {m : Mnemonic} {fed bytes : List Byte}
  {body : Engine → Except RejectCode Engine}

/-- A command of the row `m` with a reserved bit that is 1 only records RESERVED_NONZERO, after the discard of a BUILD_*
(R77). -/
theorem reservedRejected (m : Mnemonic) : ReservedRejected m.opcode m.format.reservedMask
    fun e => if m.isBuild then e.discardFrame else e :=
  fun _ s hop hr => execute_of_reserved hop hr s

/-- What acceptance of every effect and every rejection keep, a command keeps. -/
theorem Engine.command_keeps {p : Engine → Prop} (hok : ∀ e', body e = .ok e' → p e'.accept)
    (hrej : ∀ code, p (e.reject code)) : p (e.command body) := by
  obtain ⟨e', hb, hc⟩ | ⟨code, -, hc⟩ := Engine.command_cases body e
  · rw [hc]
    exact hok e' hb
  · rw [hc]
    exact hrej code

/-- A command whose effect leaves `crc` alone leaves it alone, accepted or rejected. -/
theorem Engine.command_crc (h : ∀ e', body e = .ok e' → e'.crc = e.crc) : (e.command body).crc = e.crc :=
  Engine.command_keeps (p := fun x => x.crc = e.crc) h fun _ => Engine.reject_crc ..

theorem Engine.push_crc {e' : Engine} (h : e.push bytes = .ok e') : e'.crc = e.crc := by
  unfold Engine.push at h
  split at h <;> cases h
  rfl

theorem Engine.buildBegin_crc {e' : Engine} {v : BitVec 1} (h : e.buildBegin v = .ok e') : e'.crc = e.crc := by
  obtain ⟨-, hb⟩ | ⟨-, _, hb⟩ := e.buildBegin_cases v <;> cases hb.symm.trans h
  rfl

theorem Engine.buildBlock_crc {e' : Engine} {fn len : Byte} {addr : Half} (h : e.buildBlock fn addr len = .ok e') :
    e'.crc = e.crc := by
  obtain ⟨-, hb⟩ | ⟨-, -, hb⟩ | ⟨-, -, _, hb⟩ := e.buildBlock_cases fn addr len <;> cases hb.symm.trans h
  rfl

theorem Engine.buildComplete_crc {e' : Engine} {fn : Byte} (h : e.buildComplete fn = .ok e') : e'.crc = e.crc := by
  obtain ⟨-, hb⟩ | ⟨-, _, hb⟩ := e.buildComplete_cases fn <;> cases hb.symm.trans h
  rfl

/-- The commands that may change `crc` (R23). -/
def crcCommands : List Mnemonic := [.crcInit, .crcByte, .crcDin, .softReset]

/-- Every other command leaves `crc` alone (R23, R141). -/
theorem exec_crc_of_not_crcCommand (hi : i.mnemonic ∉ crcCommands) (h : exec i s = .next t) :
    t.engine.crc = s.engine.crc := by
  cases i with
  | crcInit | crcByte _ | crcDin | softReset => simp [crcCommands, Instr.mnemonic] at hi
  | nop | errClear | dinClear | sidLo _ | sidHi _ | frameClear =>
    rw [perform_next h]
    rfl
  | dinPush1 _ | dinPush2 _ _ | dinPush3 _ _ _ =>
    rw [perform_next h]
    exact Engine.command_crc fun _ => Engine.push_crc
  | buildBegin v =>
    rw [perform_next h]
    exact Engine.command_crc (e := s.engine.discardFrame) fun _ => Engine.buildBegin_crc
  | buildBlock _ _ | buildBlockV _ _ =>
    rw [perform_next h]
    exact Engine.command_crc (e := s.engine.discardFrame) fun _ => Engine.buildBlock_crc
  | buildComplete fn =>
    rw [perform_next h]
    exact Engine.command_crc (e := s.engine.discardFrame) fun _ => Engine.buildComplete_crc

/-- `crc` is the running value of the bytes fed (R103). -/
def Engine.HasFed (e : Engine) (fed : List Byte) : Prop := e.crc = crcFold crcInitValue fed

theorem Engine.hasFed_of_crc_eq {e' : Engine} (hfed : e.HasFed fed) (h : e'.crc = e.crc) : e'.HasFed fed :=
  h.trans hfed

theorem Engine.reset_hasFed : Engine.reset.HasFed [] := rfl

/-- Feeding more bytes goes on from the running value (R102). -/
theorem Engine.hasFed_append {e' : Engine} (hfed : e.HasFed fed) (h : e'.crc = crcFold e.crc bytes) :
    e'.HasFed (fed ++ bytes) := by
  rw [Engine.HasFed, h, hfed, crcFold_append]

/-- The step of R103 for a command: but for those four it feeds no byte. -/
theorem exec_hasFed (hfed : s.engine.HasFed fed) (h : exec i s = .next t) :
    t.engine.HasFed (fedAfterCommand i s.engine fed) := by
  cases i with
  | crcInit | softReset =>
    rw [perform_next h]
    exact Engine.reset_hasFed
  | crcByte b0 =>
    rw [perform_next h]
    exact Engine.hasFed_append (bytes := [b0]) hfed rfl
  | crcDin =>
    rw [perform_next h]
    exact Engine.hasFed_append hfed rfl
  | _ => exact Engine.hasFed_of_crc_eq hfed (exec_crc_of_not_crcCommand (by simp [crcCommands, Instr.mnemonic]) h)

end Sys2Proof.Machine

/-! SUPPORT. The bytes fed over a step, whatever the host does (R103). -/

namespace Sys2Proof.Machine

variable {s t : State} {rest : List HostEvent} {ev : HostEvent} {h : HostAccess} {a : WindowAccess} {e : Engine}
  {i : Instr} {w : Word} {fed : List Byte}

theorem fedAfterEvent_hardwareReset (hr : isHardwareReset ev = true) : fedAfterEvent ev e fed = [] := if_pos hr

/-- Where no command comes, none feeds a byte. -/
theorem fedAfterEvent_noCommand (hr : isHardwareReset ev = false) (hc : commandOf ev = none) :
    fedAfterEvent ev e fed = fed := by
  simp [fedAfterEvent, hr, hc]

theorem fedAfterEvent_command (hr : isHardwareReset ev = false) (hc : commandOf ev = some i) :
    fedAfterEvent ev e fed = fedAfterCommand i e fed := by
  simp [fedAfterEvent, hr, hc]

theorem commandOf_of_word (hw : commandWord ev = some w) : commandOf ev = (decode w).toOption := by
  rw [commandOf, hw, Option.bind_some]

/-- A reset that overlaps an access leaves the engine reset (R202). -/
theorem performOverlapped_engine (ht : performOverlapped h s = .next t) : t.engine = Engine.reset := by
  unfold performOverlapped at ht
  split at ht
  · cases ht
    rfl
  · split at ht <;> cases ht <;> rfl

/-- A step that takes a reset, between accesses or during one, leaves the engine reset (R200, R202). -/
theorem step_hardwareReset_engine (hs : s.accesses = ev :: rest) (hr : isHardwareReset ev = true)
    (ht : step s = .next t) : t.engine = Engine.reset := by
  rw [step, serveNext, hs] at ht
  cases ev with
  | access h => cases hr
  | reset =>
    cases ht
    rfl
  | resetDuring h => exact performOverlapped_engine ht

/-- A step whose access issues a command word leaves the engine as running the word does, wherever `BASE` lies (R53). -/
theorem step_commandWord (hs : s.accesses = .access h :: rest) (hw : commandWord (.access h) = some w)
    (ht : step s = .next t) :
    ∃ u, execute w { s with accesses := rest } = .next u ∧ t.engine = u.engine := by
  obtain ⟨a, hroute, htgt⟩ := commandWord_access_eq_some_iff.mp hw
  have hstep : step s = performWindow a { s with accesses := rest } := by
    rw [step, serveNext, hs]
    show performAccess h _ = _
    rw [performAccess, hroute]
  obtain ⟨f, hx, hp⟩ := performWindow_of_command htgt { s with accesses := rest }
  rw [hstep, hp] at ht
  cases ht
  exact ⟨_, hx, rfl⟩

/-- A word that is no command leaves `crc` alone (R76, R77). -/
theorem execute_crc_of_error {err : DecodeError} (hd : decode w = .error err) (hx : execute w s = .next t) :
    t.engine.crc = s.engine.crc := by
  obtain ⟨i, hi, -⟩ | ⟨_, -, hopcode⟩ | ⟨_, -, hreserved⟩ := execute_cases w s
  · cases hi.symm.trans hd
  · cases hopcode.symm.trans hx
    exact Engine.reject_crc ..
  · cases hreserved.symm.trans hx
    rw [State.onEngine_engine, Engine.reject_crc]
    split <;> rfl

/-- The step of R103 for an access. -/
theorem step_access_hasFed (hs : s.accesses = .access h :: rest) (hfed : s.engine.HasFed fed)
    (ht : step s = .next t) : t.engine.HasFed (fedAfterEvent (.access h) s.engine fed) := by
  cases hw : commandWord (.access h) with
  | none =>
    rw [step_of_noCommand hs ⟨rfl, hw⟩] at ht
    cases ht
    rwa [fedAfterEvent_noCommand rfl (by rw [commandOf, hw, Option.bind_none])]
  | some w =>
    have hcmd := commandOf_of_word hw
    obtain ⟨u, hx, htu⟩ := step_commandWord hs hw ht
    rw [Engine.HasFed, htu]
    cases hd : decode w with
    | ok i =>
      rw [hd] at hcmd
      rw [execute, hd] at hx
      rw [fedAfterEvent_command rfl hcmd]
      exact exec_hasFed (s := { s with accesses := rest }) hfed hx
    | error err =>
      rw [hd] at hcmd
      rw [fedAfterEvent_noCommand rfl hcmd]
      exact Engine.hasFed_of_crc_eq hfed (execute_crc_of_error (s := { s with accesses := rest }) hd hx)

/-- R103 over a step: an event that the host makes, or none. -/
theorem step_hasFed (hfed : s.engine.HasFed fed) (ht : step s = .next t) :
    t.engine.HasFed (fedAfterStep s fed) := by
  unfold fedAfterStep
  cases hs : s.accesses with
  | nil =>
    rw [step, serveNext, hs] at ht
    cases ht
    exact hfed
  | cons ev rest =>
    cases ev with
    | access h => exact step_access_hasFed hs hfed ht
    | reset | resetDuring h =>
      rw [step_hardwareReset_engine hs rfl ht]
      exact Engine.reset_hasFed

end Sys2Proof.Machine

/-! SUPPORT. Commands one after another, and what DIN_LOAD stages (R81, R122 to R125). -/

namespace Sys2Proof.Machine

variable {s t u : State} {e : Engine} {i : Instr} {is : List Instr} {front bytes fed : List Byte}

theorem execAll_cons (h : exec i s = .next t) (is : List Instr) : execAll (i :: is) s = execAll is t := by
  simp only [execAll, h]

theorem execAll_append (h : execAll is s = .next t) (js : List Instr) : execAll (is ++ js) s = execAll js t := by
  induction is generalizing s with
  | nil =>
    cases h
    rfl
  | cons i is ih =>
    obtain ⟨f, hf⟩ := exec_eq_perform i s
    rw [execAll_cons hf] at h
    rw [List.cons_append, execAll_cons hf]
    exact ih h

/-- Exactly `bytes` are staged, with zeros after them. -/
def Engine.Stages (e : Engine) (bytes : List Byte) : Prop :=
  e.dinCnt.val = bytes.length ∧ e.din.toList = bytes ++ zeros (Config.dinCap - bytes.length)

/-- `t` is `s` but for the staging buffer and its count, and records no rejection of the last command. -/
def StagedFrom (s t : State) : Prop :=
  ∃ din dinCnt, t = { s with engine := { s.engine with din := din, dinCnt := dinCnt, lastRej := false } }

theorem StagedFrom.refl (h : s.engine.lastRej = false) : StagedFrom s s :=
  ⟨s.engine.din, s.engine.dinCnt, by rw [← h]⟩

theorem StagedFrom.trans (hst : StagedFrom s t) (htu : StagedFrom t u) : StagedFrom s u := by
  obtain ⟨_, _, rfl⟩ := hst
  obtain ⟨din, dinCnt, rfl⟩ := htu
  exact ⟨din, dinCnt, rfl⟩

theorem StagedFrom.crc (h : StagedFrom s t) : t.engine.crc = s.engine.crc := by
  obtain ⟨_, _, rfl⟩ := h
  rfl

theorem StagedFrom.lastRej (h : StagedFrom s t) : t.engine.lastRej = false := by
  obtain ⟨_, _, rfl⟩ := h
  rfl

theorem stagedBytes_of_stages (h : e.Stages bytes) : stagedBytes e = bytes := by
  obtain ⟨hcnt, hdin⟩ := h
  rw [stagedBytes, slice, hcnt, hdin, List.take_left, List.drop_zero]

/-- A push that fits, of any number of bytes (R122). -/
theorem push_stages (hs : s.engine.Stages front) (hfit : front.length + bytes.length ≤ Config.dinCap) :
    StagedFrom s (s.onEngine (Engine.command (Engine.push bytes))) ∧
      (s.onEngine (Engine.command (Engine.push bytes))).engine.Stages (front ++ bytes) := by
  obtain ⟨hcnt, hdin⟩ := hs
  have hpush := Engine.command_ok (Engine.push_fits (e := s.engine) (bytes := bytes) (by omega))
  simp only [State.onEngine, hpush]
  refine ⟨⟨_, _, rfl⟩, ?_, ?_⟩
  · show s.engine.dinCnt.val + bytes.length = _
    rw [hcnt, List.length_append]
  · show (writeBytes s.engine.din s.engine.dinCnt.val bytes).toList = _
    rw [toList_writeBytes_zeros hdin hcnt.symm (by omega), Nat.sub_sub, List.length_append]

/-- A push before other commands. -/
theorem execAll_push_cons (hi : exec i s = perform (Engine.command (Engine.push bytes)) s)
    (hs : s.engine.Stages front) (hfit : front.length + bytes.length ≤ Config.dinCap) :
    ∃ u, execAll (i :: is) s = execAll is u ∧ StagedFrom s u ∧ u.engine.Stages (front ++ bytes) :=
  ⟨_, execAll_cons hi is, push_stages hs hfit⟩

/-- The pushes of DIN_LOAD append their bytes, three at a time and then the rest. -/
theorem execAll_pushAll (bytes : List Byte) (hs : s.engine.Stages front)
    (hfit : front.length + bytes.length ≤ Config.dinCap) (hrej : s.engine.lastRej = false) :
    ∃ t, execAll (pushAll bytes) s = .next t ∧ StagedFrom s t ∧ t.engine.Stages (front ++ bytes) := by
  induction bytes using pushAll.induct generalizing s front with
  | case1 => exact ⟨s, rfl, .refl hrej, by rwa [List.append_nil]⟩
  | case2 b0 => exact execAll_push_cons rfl hs hfit
  | case3 b0 b1 => exact execAll_push_cons rfl hs hfit
  | case4 b0 b1 b2 rest ih =>
    simp only [List.length_cons] at hfit
    obtain ⟨u, hu, hsu, hstage⟩ := execAll_push_cons (i := .dinPush3 b0 b1 b2) (is := pushAll rest)
      (bytes := [b0, b1, b2]) rfl hs (by simp only [List.length_cons, List.length_nil]; omega)
    obtain ⟨t, ht, hut, ht'⟩ := ih hstage
      (by simp only [List.length_append, List.length_cons, List.length_nil]; omega) hsu.lastRej
    refine ⟨t, hu.trans ht, hsu.trans hut, ?_⟩
    rwa [List.append_assoc] at ht'

/-- DIN_CLEAR leaves nothing staged and changes nothing else (R121). -/
theorem exec_dinClear_stages (s : State) : ∃ t, exec .dinClear s = .next t ∧ StagedFrom s t ∧ t.engine.Stages [] :=
  ⟨_, rfl, ⟨_, _, rfl⟩, rfl, toList_replicate_zeros _⟩

/-- DIN_LOAD stages exactly its bytes and changes nothing else (R81). -/
theorem execAll_dinLoad (bytes : List Byte) (hfit : bytes.length ≤ Config.dinCap) (s : State) :
    ∃ t, execAll (dinLoad bytes) s = .next t ∧ StagedFrom s t ∧ t.engine.Stages bytes := by
  obtain ⟨u, hu, hsu, hempty⟩ := exec_dinClear_stages s
  obtain ⟨t, ht, hut, hstage⟩ := execAll_pushAll bytes hempty (by simpa using hfit) hsu.lastRej
  exact ⟨t, (execAll_cons hu _).trans ht, hsu.trans hut, hstage⟩

/-! The rounds of a long span (R108). -/

/-- A round of DIN_LOAD and CRC_DIN feeds its bytes. -/
theorem execAll_round (hfed : s.engine.HasFed fed) (hfit : bytes.length ≤ Config.dinCap) :
    ∃ t, execAll (dinLoad bytes ++ [.crcDin]) s = .next t ∧ t.engine.HasFed (fed ++ bytes) := by
  obtain ⟨u, hu, hsu, hstage⟩ := execAll_dinLoad bytes hfit s
  have hdin : exec .crcDin u = .next _ := rfl
  refine ⟨_, (execAll_append hu _).trans (execAll_cons hdin []), ?_⟩
  rw [← stagedBytes_of_stages hstage]
  exact exec_hasFed (Engine.hasFed_of_crc_eq hfed hsu.crc) hdin

/-- Any number of rounds feed their bytes in order. -/
theorem execAll_rounds (rounds : List (List Byte)) (hfit : ∀ bytes ∈ rounds, bytes.length ≤ Config.dinCap)
    (hfed : s.engine.HasFed fed) :
    ∃ t, execAll (rounds.flatMap fun bytes => dinLoad bytes ++ [.crcDin]) s = .next t ∧
      t.engine.HasFed (fed ++ rounds.flatten) := by
  induction rounds generalizing s fed with
  | nil => exact ⟨s, rfl, by rwa [List.flatten_nil, List.append_nil]⟩
  | cons bytes rounds ih =>
    obtain ⟨hbytes, hrounds⟩ := List.forall_mem_cons.mp hfit
    obtain ⟨u, hu, hfedu⟩ := execAll_round hfed hbytes
    obtain ⟨t, ht, hfedt⟩ := ih hrounds hfedu
    refine ⟨t, ?_, ?_⟩
    · rw [List.flatMap_cons, execAll_append hu, ht]
    · rwa [List.append_assoc, ← List.flatten_cons] at hfedt

end Sys2Proof.Machine

/-! SUPPORT. The statements about the CRC unit and its commands (R101 to R108). -/

namespace Sys2Proof.Machine

/-- Settles O24: a step takes a reset, which starts anew, or a command, which feeds what `fedAfterCommand` says, or neither,
and then `crc` stays. -/
theorem streamingCrcFollowsTheBytesFed : Obligations.StreamingCrcFollowsTheBytesFed :=
  ⟨fun _ _ _ hfed ht => step_hasFed hfed ht, fun _ _ => readRegister_crcValue_of_fold⟩

/-- Settles O21: the round shifts right with the reversed constant, so its reverse shifts left with the constant. -/
theorem crcRoundIsTheReflectedDivision : Obligations.CrcRoundIsTheReflectedDivision :=
  ⟨crcReversedPoly_eq_reverse, fun _ => rfl, crcRound_reverse, crcUpdate_eq_iterate⟩

/-- Settles O22: each round is additive and injective, so the eight of them are; a CRC command has no check to fail. -/
theorem crcUpdateIsAnAdditiveBijection : Obligations.CrcUpdateIsAnAdditiveBijection := by
  refine ⟨crcUpdate_bijective, crcUpdate_zero_byte_xor, ?_, fun i s hi => ?_⟩
  · rw [crcUpdate_zero_byte]
    exact (crcRound_xorAdditive.iterate 8).map_zero
  · cases i with
    | crcInit | crcByte _ | crcDin => exact ⟨_, rfl⟩
    | _ => simp [Instr.mnemonic] at hi

/-- Settles O19: CRC_BYTE is the byte step, of which a zero byte fixes no register but zero. -/
theorem crcByteFoldsOneByteIn : Obligations.CrcByteFoldsOneByteIn := by
  refine ⟨fun b0 => ?_, fun s b0 => exec_crcByte_eq b0 s, crcUpdate_zero_byte_fixesOnlyZero, by decide +kernel,
    reservedRejected .crcByte⟩
  rw [encode, Instr.mnemonic, matchWord_crcByte, fieldBits]

/-- Settles O20: DIN_LOAD stages exactly the bytes of its round and keeps `crc`, and CRC_DIN feeds what is staged. -/
theorem crcDinFoldsTheStagedBytesIn : Obligations.CrcDinFoldsTheStagedBytesIn := by
  refine ⟨by decide, fun _ => rfl, fun s rounds hfit => ?_, reservedRejected .crcDin⟩
  have hinit : exec .crcInit s = .next _ := rfl
  obtain ⟨t, ht, hfed⟩ := execAll_rounds (fed := []) rounds hfit (execCrcInit_crc hinit)
  exact ⟨t, (execAll_cons hinit _).trans ht, readRegister_crcValue_of_fold hfed⟩

/-- Settles O18: CRC_INIT leaves the running value of no bytes, whose CRC-32 is 0. -/
theorem crcInitStartsACrc : Obligations.CrcInitStartsACrc :=
  ⟨by decide, fun _ => rfl, fun _ _ h => readRegister_crcValue_of_fold (fed := []) (execCrcInit_crc h),
    reservedRejected .crcInit⟩

/-- Settles O23: by evaluation, byte by byte. -/
theorem crcReferenceValues : Obligations.CrcReferenceValues := by
  refine ⟨rfl, ?_⟩
  rw [crc32_eq_eager]
  decide +kernel

end Sys2Proof.Machine

/-! SUPPORT. What a push does, of any number of bytes (R122), and the halves of a word (R126, R127). -/

namespace Sys2Proof.Machine

variable {s : State} {bytes : List Byte}

/-- A push that does not fit only records DIN_OVERFLOW (R122, R181). -/
theorem perform_push_overflow (h : Config.dinCap < s.engine.dinCnt.val + bytes.length) :
    perform (Engine.command (Engine.push bytes)) s = .next (s.onEngine (Engine.reject .dinOverflow)) := by
  rw [perform, State.onEngine, Engine.command_error (Engine.push_overflow h)]
  rfl

/-- A push that fits writes its bytes from the count on and raises the count, and is accepted (R122). -/
theorem perform_push_fits (h : s.engine.dinCnt.val + bytes.length ≤ Config.dinCap) :
    perform (Engine.command (Engine.push bytes)) s = .next { s with engine := { s.engine with
      din := writeBytes s.engine.din s.engine.dinCnt.val bytes
      dinCnt := ⟨s.engine.dinCnt.val + bytes.length, Nat.lt_succ_of_le h⟩
      lastRej := false } } := by
  rw [perform, State.onEngine, Engine.command_ok (Engine.push_fits h)]
  rfl

/-- A byte of a buffer after a write that stays inside it. -/
theorem byteAt_writeBytes_fits {n : Nat} (a : Vector Byte n) {i : Nat} (j : Nat) (h : i + bytes.length ≤ n) :
    byteAt (writeBytes a i bytes) j =
      if i ≤ j ∧ j < i + bytes.length then bytes.getD (j - i) 0 else byteAt a j := by
  rw [byteAt_writeBytes]
  congr 1
  rw [eq_iff_iff]
  omega

/-! The halves of a word. -/

theorem lowHalf_setWidth (imm16 : Half) : (imm16.setWidth 32).extractLsb' 0 16 = imm16 := by
  ext k hk
  have hk32 : k < 32 := by omega
  simp [hk32, BitVec.getLsbD_eq_getElem hk]

theorem highHalf_setWidth (imm16 : Half) : (imm16.setWidth 32).extractLsb' 16 16 = 0 := by
  ext k hk
  simp

theorem lowHalf_shifted (imm16 : Half) : (imm16.setWidth 32 <<< 16).extractLsb' 0 16 = 0 := by
  ext k hk
  simp [hk]

theorem highHalf_shifted (imm16 : Half) : (imm16.setWidth 32 <<< 16).extractLsb' 16 16 = imm16 := by
  ext k hk
  have hk32 : 16 + k < 32 := by omega
  simp [hk32, BitVec.getLsbD_eq_getElem hk]

end Sys2Proof.Machine

/-! SUPPORT. The statements about the staging commands (R121 to R127). -/

namespace Sys2Proof.Machine

/-- Settles O26: the three commands are one push, of one, two and three bytes, which fits or does not. -/
theorem pushesAppendAllOrNothing : Obligations.PushesAppendAllOrNothing := by
  refine ⟨fun b0 => ?_, fun b0 b1 => ?_, fun b0 b1 b2 => ?_, fun s i bytes hi => ?_, reservedRejected .dinPush1,
    reservedRejected .dinPush2⟩
  · rw [encode, Instr.mnemonic, matchWord_dinPush1, fieldBits]
  · simp [encode, Instr.mnemonic, fieldBits, BitVec.or_assoc]
  · simp [encode, Instr.mnemonic, fieldBits, BitVec.or_assoc]
  · have hexec : exec i s = perform (Engine.command (Engine.push bytes)) s := by
      obtain ⟨_, rfl, rfl⟩ | ⟨_, _, rfl, rfl⟩ | ⟨_, _, _, rfl, rfl⟩ := hi <;> rfl
    exact ⟨fun hfit => ⟨_, _, hexec.trans (perform_push_fits hfit), rfl, fun j _ => byteAt_writeBytes_fits _ j hfit⟩,
      fun hover => hexec.trans (perform_push_overflow hover)⟩

/-- Settles O25: DIN_CLEAR has no check to fail. -/
theorem dinClearEmptiesTheBuffer : Obligations.DinClearEmptiesTheBuffer :=
  ⟨by decide, fun _ => rfl, reservedRejected .dinClear⟩

/-- Settles O27: the mask clears the low half and keeps the high one, where IMM16 has no bit. -/
theorem sidLoLoadsTheLowHalf : Obligations.SidLoLoadsTheLowHalf := by
  refine ⟨fun imm16 => ?_, fun s imm16 => ⟨_, rfl, ?_, ?_⟩, reservedRejected .sidLo⟩
  · rw [encode, Instr.mnemonic, matchWord_sidLo, fieldBits]
  · have hmask : (0xFFFF0000 : Word).extractLsb' 0 16 = 0#16 := by decide
    rw [BitVec.extractLsb'_or, BitVec.extractLsb'_and, hmask, lowHalf_setWidth, BitVec.and_zero, BitVec.zero_or]
  · have hmask : (0xFFFF0000 : Word).extractLsb' 16 16 = BitVec.allOnes 16 := by decide
    rw [BitVec.extractLsb'_or, BitVec.extractLsb'_and, hmask, highHalf_setWidth, BitVec.and_allOnes]
    exact BitVec.or_zero

/-- Settles O28: the mask clears the high half and keeps the low one, where the shifted IMM16 has no bit. -/
theorem sidHiLoadsTheHighHalf : Obligations.SidHiLoadsTheHighHalf := by
  refine ⟨fun imm16 => ?_, fun s imm16 => ⟨_, rfl, ?_, ?_⟩, reservedRejected .sidHi⟩
  · rw [encode, Instr.mnemonic, matchWord_sidHi, fieldBits]
  · have hmask : (0x0000FFFF : Word).extractLsb' 16 16 = 0#16 := by decide
    rw [BitVec.extractLsb'_or, BitVec.extractLsb'_and, hmask, highHalf_shifted, BitVec.and_zero, BitVec.or_zero]
  · have hmask : (0x0000FFFF : Word).extractLsb' 0 16 = BitVec.allOnes 16 := by decide
    rw [BitVec.extractLsb'_or, BitVec.extractLsb'_and, hmask, lowHalf_shifted, BitVec.and_allOnes]
    exact BitVec.zero_or

end Sys2Proof.Machine

/-! SUPPORT. What a frame buffer that holds a frame shows: its bytes, and the CRC check a receiver makes (R82, R143). -/

namespace Sys2Proof.Machine

variable {n i j : Nat} {e t : Engine} {fbuf f₁ f₂ : Vector Byte Config.fbufSize} {frame body payload : List Byte}
  {id fn fn' len : Byte} {addr : Half}

/-! A framed engine (R142). -/

theorem Framed.fvalid (h : Framed frame e t) : t.fvalid = true := by
  obtain ⟨_, rfl, -⟩ := h
  rfl

theorem Framed.lastRej (h : Framed frame e t) : t.lastRej = false := by
  obtain ⟨_, rfl, -⟩ := h
  rfl

theorem Framed.holdsFrame (h : Framed frame e t) : holdsFrame t.fbuf frame := by
  obtain ⟨_, rfl, hfbuf⟩ := h
  exact hfbuf

/-! The bytes of a frame (R82). -/

theorem getD_append_zeros (bytes : List Byte) (k i : Nat) : (bytes ++ zeros k).getD i 0 = bytes.getD i 0 := by
  by_cases hi : i < bytes.length
  · rw [List.getD_append _ _ _ _ hi]
  · have hi' : bytes.length ≤ i := Nat.le_of_not_lt hi
    rw [List.getD_append_right _ _ _ _ hi', List.getD_eq_default _ _ hi', zeros,
      List.getD_eq_getElem?_getD, List.getElem?_replicate]
    split <;> rfl

/-- A buffer that holds a frame shows the frame's bytes, and zeros after them. -/
theorem byteAt_of_holdsFrame (h : holdsFrame fbuf frame) (i : Nat) : byteAt fbuf i = frame.getD i 0 := by
  rw [byteAt_toList, h, getD_append_zeros]

/-- The bytes of a frame before its CRC are its length, two zeros and its message id. -/
theorem frameOf_getD_header (id : Byte) (body : List Byte) (hi : i < 4) :
    (frameOf id body).getD i 0 = [BitVec.ofNat 8 (body.length + 8), 0x00, 0x00, id].getD i 0 := by
  rw [frameOf, List.append_assoc, List.getD_append _ _ _ _ (by simpa using hi)]

/-- The bytes 4 to 7 of a frame are its CRC. -/
theorem frameOf_getD_crc (id : Byte) (body : List Byte) (hi : i < 4) :
    (frameOf id body).getD (4 + i) 0 = (le32 (crc32 body)).getD i 0 := by
  rw [frameOf, List.append_assoc, List.getD_append_right _ _ _ _ (by simp),
    List.getD_append _ _ _ _ (by simpa using hi)]
  simp

/-- The bytes of a frame after its CRC are its body. -/
theorem frameOf_getD_body (id : Byte) (body : List Byte) (i : Nat) :
    (frameOf id body).getD (8 + i) 0 = body.getD i 0 := by
  rw [frameOf, List.getD_append_right _ _ _ _ (by simp)]
  simp

theorem length_frameOf (id : Byte) (body : List Byte) : (frameOf id body).length = body.length + 8 := by
  simp [frameOf]
  omega

/-- Four bytes that are a word's, lowest first, are that word (R11, R34). -/
theorem pack32_of_le32 {a : Vector Byte n} {v : Word} (h : ∀ k < 4, byteAt a (j + k) = (le32 v).getD k 0) :
    pack32 a j = v := by
  have h0 : byteAt a j = v.extractLsb' 0 8 := h 0 (by decide)
  have h1 : byteAt a (j + 1) = v.extractLsb' 8 8 := h 1 (by decide)
  have h2 : byteAt a (j + 2) = v.extractLsb' 16 8 := h 2 (by decide)
  have h3 : byteAt a (j + 3) = v.extractLsb' 24 8 := h 3 (by decide)
  rw [pack32, h0, h1, h2, h3]
  apply BitVec.eq_of_getLsbD_eq
  intro k hk
  simp only [BitVec.getLsbD_or, BitVec.getLsbD_shiftLeft, BitVec.getLsbD_setWidth, BitVec.getLsbD_extractLsb']
  have hbyte : k < 8 ∨ 8 ≤ k ∧ k < 16 ∨ 16 ≤ k ∧ k < 24 ∨ 24 ≤ k := by omega
  grind

/-- The receiver's check (R143): the first byte of a frame is its length, and its CRC is that of the bytes from 8 to its
length. -/
theorem Framed.crcCheck {length : Nat} (h : Framed (frameOf id body) e t) (hl : body.length + 8 = length)
    (hfit : length ≤ Config.fbufSize) : (byteAt t.fbuf 0).toNat = length ∧
      pack32 t.fbuf 4 = crc32 (slice t.fbuf 8 (byteAt t.fbuf 0).toNat) := by
  have hfbuf := h.holdsFrame
  have hfirst : (byteAt t.fbuf 0).toNat = length := by
    rw [byteAt_of_holdsFrame hfbuf, frameOf_getD_header id body (by decide), hl]
    exact Nat.mod_eq_of_lt (Nat.lt_of_le_of_lt hfit (by decide))
  have hbody : slice t.fbuf 8 length = body := by
    rw [slice, hfbuf, List.take_left' ((length_frameOf id body).trans hl), frameOf, List.drop_left' (by simp)]
  refine ⟨hfirst, ?_⟩
  rw [hfirst, hbody]
  exact pack32_of_le32 fun k hk => by rw [byteAt_of_holdsFrame hfbuf, frameOf_getD_crc id body hk]

/-! The function byte of a Block frame (R84, R155). -/

/-- The first bytes of a Block frame's body are its fields, and the payload follows (R84). -/
theorem blockFrame_eq (addr : Half) (len fn : Byte) (payload : List Byte) : blockFrame addr len fn payload =
    frameOf 0x81 (addr.extractLsb' 0 8 :: addr.extractLsb' 8 8 :: len :: fn :: payload) := rfl

/-- Byte 11 of a Block frame is its function byte. -/
theorem byteAt_block_fn (h : holdsFrame f₁ (blockFrame addr len fn payload)) : byteAt f₁ 11 = fn := by
  rw [byteAt_of_holdsFrame h, blockFrame_eq]
  exact frameOf_getD_body _ _ 3

/-- Two Block frames that differ in the function agree outside their CRC and byte 11. -/
theorem byteAt_block_eq (h₁ : holdsFrame f₁ (blockFrame addr len fn payload))
    (h₂ : holdsFrame f₂ (blockFrame addr len fn' payload)) (hne : j ≠ 11) (hj : j < 4 ∨ 8 ≤ j) :
    byteAt f₁ j = byteAt f₂ j := by
  rw [byteAt_of_holdsFrame h₁, byteAt_of_holdsFrame h₂, blockFrame_eq, blockFrame_eq]
  obtain hlt | hge := hj
  · rw [frameOf_getD_header _ _ hlt, frameOf_getD_header _ _ hlt]
    rfl
  · obtain ⟨k, rfl⟩ := Nat.exists_eq_add_of_le hge
    rw [frameOf_getD_body, frameOf_getD_body]
    match k with
    | 0 | 1 | 2 => rfl
    | 3 => exact absurd rfl hne
    | k + 4 => rfl

end Sys2Proof.Machine

/-! SUPPORT. Assembling a frame from left to right in an empty buffer, and finishing it (R142); what each BUILD_* does
with its checks (R145, R150, R155, R160). -/

namespace Sys2Proof.Machine

variable {e x : Engine} {s : State} {front body frame : List Byte} {id fn len : Byte} {addr : Half} {k : Nat}
  {code : RejectCode} {act : Engine → Except RejectCode Engine}

/-- `x` is `e` but for its frame buffer, in which `front` stands, and zeros after it. -/
def Engine.Assembled (e x : Engine) (front : List Byte) : Prop :=
  ∃ fbuf, x = { e with fbuf := fbuf } ∧ holdsFrame fbuf front

/-- A discarded frame leaves a buffer in which nothing stands (R140). -/
theorem Engine.assembled_discardFrame (e : Engine) : e.discardFrame.Assembled e.discardFrame [] :=
  ⟨e.discardFrame.fbuf, rfl, toList_replicate_zeros _⟩

/-- A write where the bytes assembled so far end goes on from there. -/
theorem Engine.Assembled.putFrame (h : e.Assembled x front) (bytes : List Byte) (hk : front.length = k)
    (hfit : k + bytes.length ≤ Config.fbufSize) : e.Assembled (x.putFrame k bytes) (front ++ bytes) := by
  obtain ⟨fbuf, rfl, hfbuf⟩ := h
  refine ⟨writeBytes fbuf k bytes, rfl, ?_⟩
  rw [holdsFrame, toList_writeBytes_zeros hfbuf hk (by omega), Nat.sub_sub, List.length_append]

/-- A frame assembled with a zero placeholder for its CRC is the frame once it is finished (R142). -/
theorem Engine.Assembled.finalize {length : Nat}
    (h : e.Assembled x ([BitVec.ofNat 8 length, 0x00, 0x00, id] ++ zeros 4 ++ body)) (hl : length = body.length + 8) :
    ∃ fbuf, x.finalize length = { e with fbuf := fbuf, fvalid := true } ∧ holdsFrame fbuf (frameOf id body) := by
  obtain ⟨fbuf, rfl, hfbuf⟩ := h
  refine ⟨_, rfl, ?_⟩
  have hlen : ([BitVec.ofNat 8 length, 0x00, 0x00, id] ++ zeros 4 ++ body).length = length := by
    simp
    omega
  rw [holdsFrame, hlen] at hfbuf
  rw [holdsFrame, length_frameOf, ← hl, frameOf, ← hl]
  exact Engine.finalize_toList (e := { e with fbuf := fbuf }) hfbuf rfl hl

/-- The three bodies assemble their fields in this way: a header, the placeholder, and four fields. -/
theorem Engine.six_writes_frame (e : Engine) (id : Byte) (b₁ b₂ b₃ b₄ : List Byte) {i₂ i₃ i₄ length : Nat}
    (h₂ : i₂ = 8 + b₁.length) (h₃ : i₃ = i₂ + b₂.length) (h₄ : i₄ = i₃ + b₃.length) (hl : length = i₄ + b₄.length)
    (hfit : length ≤ Config.fbufSize) :
    ∃ fbuf, (e.discardFrame
      |>.putFrame 0 [BitVec.ofNat 8 length, 0x00, 0x00, id] |>.putFrame 4 (zeros 4)
      |>.putFrame 8 b₁ |>.putFrame i₂ b₂ |>.putFrame i₃ b₃ |>.putFrame i₄ b₄
      |>.finalize length) = { e with fbuf := fbuf, fvalid := true } ∧
      holdsFrame fbuf (frameOf id (b₁ ++ b₂ ++ b₃ ++ b₄)) := by
  have hassembled := e.assembled_discardFrame
    |>.putFrame [BitVec.ofNat 8 length, 0x00, 0x00, id] (k := 0) rfl (by simp [Config.fbufSize])
    |>.putFrame (zeros 4) (k := 4) rfl (by simp [Config.fbufSize])
    |>.putFrame b₁ (k := 8) rfl (by omega)
    |>.putFrame b₂ (k := i₂) (by simp; omega) (by omega)
    |>.putFrame b₃ (k := i₃) (by simp; omega) (by omega)
    |>.putFrame b₄ (k := i₄) (by simp; omega) (by omega)
  refine Engine.Assembled.finalize (e := e.discardFrame) ?_ (by simp; omega)
  simpa only [List.nil_append, List.append_assoc] using hassembled

/-- An accepted BUILD_* whose body finishes a frame leaves it framed. -/
theorem Engine.build_framed
    (h : ∃ fbuf, act e.discardFrame = .ok { e with fbuf := fbuf, fvalid := true } ∧ holdsFrame fbuf frame) :
    Framed frame e (e.build act) := by
  obtain ⟨fbuf, hbody, hfbuf⟩ := h
  exact ⟨fbuf, Engine.build_ok hbody, hfbuf⟩

/-! The inputs and the checks of the three bodies. -/

theorem length_ivBytes (e : Engine) : (ivBytes e).length = 14 := by simp [ivBytes, Config.dinCap]

theorem length_blockBytes (e : Engine) : (blockBytes e).length = 128 := by simp [blockBytes]

theorem length_versionBytes (e : Engine) : (versionBytes e).length = 120 := by simp [versionBytes, Config.dinCap]

theorem ivBytes_eq_take (e : Engine) : ivBytes e = e.din.toList.take 14 := List.drop_zero

theorem blockBytes_eq_din (e : Engine) : blockBytes e = e.din.toList := by
  rw [blockBytes, slice, List.drop_zero, List.take_of_length_le (by simp)]

theorem versionBytes_eq_take (e : Engine) : versionBytes e = e.din.toList.take 120 := List.drop_zero

theorem addr_inRange_iff : ¬ (addr < 0x1000 ∨ 0x7FFF < addr) ↔ 0x1000 ≤ addr ∧ addr ≤ 0x7FFF := by
  rw [not_or, BitVec.not_lt, BitVec.not_lt]

/-- V as the function byte of a Begin frame (R83). -/
theorem flag_setWidth (v : BitVec 1) : v.setWidth 8 = if v = 1 then (0x01 : Byte) else 0x00 := by
  revert v
  decide

theorem mem_functions_iff : fn ∈ [(0x00 : Byte), 0x01, 0x03] ↔ fn = 0x00 ∨ fn = 0x01 ∨ fn = 0x03 := by simp

/-- BUILD_BEGIN with 14 staged bytes (R145). -/
theorem Engine.build_buildBegin_framed (v : BitVec 1) (h : e.dinCnt.val = 14) :
    Framed (beginFrame e.sid (e.din.toList.take 14) (v.setWidth 8)) e (e.build (Engine.buildBegin v)) := by
  obtain ⟨fbuf, hx, hfbuf⟩ := e.six_writes_frame (i₂ := 12) (i₃ := 26) (i₄ := 27) (length := 28)
    0x80 (le32 e.sid) (ivBytes e) [v.setWidth 8] [0x00] rfl (by rw [length_ivBytes]) rfl rfl (by decide)
  rw [ivBytes_eq_take, List.append_assoc] at hfbuf
  exact Engine.build_framed ⟨fbuf, (if_neg (not_not.mpr h)).trans (congrArg _ hx), hfbuf⟩

/-- BUILD_BEGIN with any other number of staged bytes (R145). -/
theorem Engine.build_buildBegin_badIvCount (v : BitVec 1) (h : e.dinCnt.val ≠ 14) :
    e.build (Engine.buildBegin v) = e.discardFrame.reject .badIvCount :=
  Engine.build_error (if_pos h)

/-- BUILD_BLOCK and BUILD_BLOCK_V with ADDR and LEN in range (R150, R155). -/
theorem Engine.build_buildBlock_framed (e : Engine) (fn : Byte) (haddr : ¬ (addr < 0x1000 ∨ 0x7FFF < addr))
    (hlen : len ≤ 0x80) :
    Framed (blockFrame addr len fn e.din.toList) e (e.build (Engine.buildBlock fn addr len)) := by
  obtain ⟨fbuf, hx, hfbuf⟩ := e.six_writes_frame (i₂ := 10) (i₃ := 11) (i₄ := 12) (length := 140)
    0x81 (le16 addr) [len] [fn] (blockBytes e) rfl rfl rfl (by rw [length_blockBytes]) (by decide)
  rw [blockBytes_eq_din, List.append_assoc (le16 addr)] at hfbuf
  have hlen' : ¬ 0x80 < len := BitVec.not_lt.mpr hlen
  exact Engine.build_framed ⟨fbuf, (if_neg haddr).trans ((if_neg hlen').trans (congrArg _ hx)), hfbuf⟩

/-- BUILD_BLOCK and BUILD_BLOCK_V with ADDR out of range, whatever LEN is (R150, R182). -/
theorem Engine.build_buildBlock_badAddress (e : Engine) (fn len : Byte) (h : addr < 0x1000 ∨ 0x7FFF < addr) :
    e.build (Engine.buildBlock fn addr len) = e.discardFrame.reject .badAddress :=
  Engine.build_error (if_pos h)

/-- BUILD_BLOCK and BUILD_BLOCK_V with ADDR in range and LEN too large (R150). -/
theorem Engine.build_buildBlock_badLength (e : Engine) (fn : Byte) (haddr : ¬ (addr < 0x1000 ∨ 0x7FFF < addr))
    (hlen : 0x80 < len) : e.build (Engine.buildBlock fn addr len) = e.discardFrame.reject .badLength :=
  Engine.build_error ((if_neg haddr).trans (if_pos hlen))

/-- BUILD_COMPLETE with a function of R160. -/
theorem Engine.build_buildComplete_framed (e : Engine) (h : fn ∈ [0x00, 0x01, 0x03]) :
    Framed (completeFrame e.sid fn (e.din.toList.take 120)) e (e.build (Engine.buildComplete fn)) := by
  obtain ⟨fbuf, hx, hfbuf⟩ := e.six_writes_frame (i₂ := 12) (i₃ := 13) (i₄ := 133) (length := 136)
    0x82 (le32 e.sid) [fn] (versionBytes e) (zeros 3) rfl rfl (by rw [length_versionBytes]) rfl (by decide)
  rw [versionBytes_eq_take] at hfbuf
  exact Engine.build_framed ⟨fbuf, (if_neg (not_not.mpr h)).trans (congrArg _ hx), hfbuf⟩

/-- BUILD_COMPLETE with any other function (R160). -/
theorem Engine.build_buildComplete_badFunction (e : Engine) (h : fn ∉ [0x00, 0x01, 0x03]) :
    e.build (Engine.buildComplete fn) = e.discardFrame.reject .badFunction :=
  Engine.build_error (if_pos h)

/-! The same as the next state of the machine. -/

theorem perform_of_framed {f : Engine → Engine} (h : Framed frame s.engine (f s.engine)) :
    ∃ fbuf : Vector Byte 140,
      perform f s = .next { s with engine := { s.engine with fbuf := fbuf, fvalid := true, lastRej := false } } ∧
      holdsFrame fbuf frame := by
  obtain ⟨fbuf, hf, hfbuf⟩ := h
  exact ⟨fbuf, by rw [perform, State.onEngine, hf], hfbuf⟩

theorem perform_of_rejectedBuild {f : Engine → Engine} (h : f s.engine = s.engine.discardFrame.reject code) :
    perform f s = .next (rejectedBuild code s) := by
  rw [perform, State.onEngine, h]
  rfl

/-- The staged bytes and zeros after them are the whole staging buffer, where it is zero from the count on (R25). -/
theorem din_eq_stagedBytes_zeros (h : e.StagingClean) :
    e.din.toList = stagedBytes e ++ zeros (128 - e.dinCnt.val) := by
  have hdrop : e.din.toList.drop e.dinCnt.val = zeros (128 - e.dinCnt.val) := by
    apply List.ext_getElem
    · simp
    · intro k hk _
      have hk' : e.dinCnt.val + k < 128 := by simpa [Nat.lt_sub_iff_add_lt'] using hk
      rw [List.getElem_drop, Vector.getElem_toList, ← byteAt_eq_getElem e.din hk']
      simpa [zeros] using h ⟨_, hk'⟩ (Nat.le_add_right ..)
  rw [← hdrop, stagedBytes, slice, List.drop_zero, List.take_append_drop]

/-- The version string is the staged bytes truncated at 120, with zeros after them where there are fewer (R160). -/
theorem din_take_eq_stagedBytes_zeros (h : e.StagingClean) :
    e.din.toList.take 120 = (stagedBytes e).take 120 ++ zeros (120 - e.dinCnt.val) := by
  have hcnt : e.dinCnt.val ≤ 128 := Nat.le_of_lt_succ e.dinCnt.isLt
  have hlen : (stagedBytes e).length = e.dinCnt.val := by simp [stagedBytes, Nat.min_eq_left hcnt]
  rw [din_eq_stagedBytes_zeros h, List.take_append, hlen, zeros, List.take_replicate, zeros]
  congr 2
  omega

end Sys2Proof.Machine

/-! SUPPORT. What a BUILD_* word can do (R140, R143), and the commands that touch the frame (R166). -/

namespace Sys2Proof.Machine

variable {e e' : Engine} {s t : State} {i : Instr} {w : Word} {m : Mnemonic} {fn len : Byte} {addr : Half}

/-- A framed Begin frame is formed (R83). -/
theorem Framed.formed_begin {sid : Word} (v : BitVec 1)
    (h : Framed (beginFrame sid (e.din.toList.take 14) (v.setWidth 8)) e e') : e'.FrameFormed := by
  have hfn : ∀ v : BitVec 1, v.setWidth 8 = (0x00 : Byte) ∨ v.setWidth 8 = (0x01 : Byte) := by decide
  exact .inl ⟨_, _, _, by simp [Config.dinCap], hfn v, h.holdsFrame⟩

/-- A framed Block frame with fields in range is formed (R84). -/
theorem Framed.formed_block (haddr : ¬ (addr < 0x1000 ∨ 0x7FFF < addr)) (hlen : len ≤ 0x80)
    (hfn : fn = 0x00 ∨ fn = 0x01) (h : Framed (blockFrame addr len fn e.din.toList) e e') : e'.FrameFormed := by
  obtain ⟨hlo, hhi⟩ := addr_inRange_iff.mp haddr
  exact .inr (.inl ⟨_, _, _, _, hlo, hhi, hlen, hfn, Vector.length_toList, h.holdsFrame⟩)

/-- A framed Complete frame with a function of R160 is formed (R85). -/
theorem Framed.formed_complete {sid : Word} (hfn : fn ∈ [0x00, 0x01, 0x03])
    (h : Framed (completeFrame sid fn (e.din.toList.take 120)) e e') : e'.FrameFormed :=
  .inr (.inr ⟨_, _, _, mem_functions_iff.mp hfn, by simp [Config.dinCap], h.holdsFrame⟩)

/-- BUILD_BLOCK and BUILD_BLOCK_V, whichever check comes out how. -/
theorem Engine.build_buildBlock_cases (e : Engine) (addr : Half) (len : Byte) (hfn : fn = 0x00 ∨ fn = 0x01) :
    (Framed (blockFrame addr len fn e.din.toList) e (e.build (Engine.buildBlock fn addr len)) ∧
      (e.build (Engine.buildBlock fn addr len)).FrameFormed) ∨
    ∃ code, e.build (Engine.buildBlock fn addr len) = e.discardFrame.reject code := by
  by_cases haddr : addr < 0x1000 ∨ 0x7FFF < addr
  · exact .inr ⟨_, Engine.build_buildBlock_badAddress e fn len haddr⟩
  · by_cases hlen : len ≤ 0x80
    · have hframed := Engine.build_buildBlock_framed e fn haddr hlen
      exact .inl ⟨hframed, hframed.formed_block haddr hlen hfn⟩
    · exact .inr ⟨_, Engine.build_buildBlock_badLength e fn haddr (BitVec.not_le.mp hlen)⟩

/-- A BUILD_* is accepted with its frame, which is well formed, or leaves no frame (R140, R183). -/
theorem exec_build_cases (hi : i.mnemonic.isBuild = true) (h : exec i s = .next t) :
    (Performed i s.engine t.engine ∧ t.engine.FrameFormed) ∨
    ∃ code, t.engine = s.engine.discardFrame.reject code := by
  cases i with
  | buildBegin v =>
    cases h
    by_cases hcnt : s.engine.dinCnt.val = 14
    · have hframed := Engine.build_buildBegin_framed v hcnt
      exact .inl ⟨hframed, hframed.formed_begin v⟩
    · exact .inr ⟨_, Engine.build_buildBegin_badIvCount v hcnt⟩
  | buildBlock addr len | buildBlockV addr len =>
    cases h
    exact Engine.build_buildBlock_cases s.engine addr len (by decide)
  | buildComplete fn =>
    cases h
    by_cases hfn : fn ∈ [(0x00 : Byte), 0x01, 0x03]
    · have hframed := Engine.build_buildComplete_framed s.engine hfn
      exact .inl ⟨hframed, hframed.formed_complete hfn⟩
    · exact .inr ⟨_, Engine.build_buildComplete_badFunction s.engine hfn⟩
  | _ => cases hi

/-- A BUILD_* performed completely has set FVALID and is not rejected (R142). -/
theorem Performed.fvalid_of_build (hi : i.mnemonic.isBuild = true) (h : Performed i e e') :
    e'.fvalid = true ∧ e'.lastRej = false := by
  cases i with
  | buildBegin _ | buildBlock _ _ | buildBlockV _ _ | buildComplete _ => exact ⟨Framed.fvalid h, Framed.lastRej h⟩
  | _ => cases hi

/-- An accepted BUILD_* is performed completely (R183). -/
theorem performed_of_accepted_build (hi : i.mnemonic.isBuild = true) (h : exec i s = .next t)
    (ha : t.engine.lastRej = false) : Performed i s.engine t.engine := by
  obtain ⟨hperf, -⟩ | ⟨code, hrej⟩ := exec_build_cases hi h
  · exact hperf
  · rw [hrej, Engine.reject_lastRej] at ha
    cases ha

/-- A BUILD_* rejected for any reason leaves no frame (R140). -/
theorem Engine.rejectedBuild_noFrame (e : Engine) (code : RejectCode) :
    (e.discardFrame.reject code).fvalid = false ∧ (e.discardFrame.reject code).lastRej = true ∧
      (e.discardFrame.reject code).fbuf = Vector.replicate 140 0x00 :=
  ⟨Engine.reject_fvalid .., Engine.reject_lastRej .., Engine.reject_fbuf ..⟩

/-- Every BUILD_* discards the frame before all else (R140). -/
theorem exec_build_eq (hi : i.mnemonic.isBuild = true) : ∃ act, ∀ s, exec i s = perform (Engine.build act) s := by
  cases i with
  | buildBegin _ | buildBlock _ _ | buildBlockV _ _ | buildComplete _ => exact ⟨_, fun _ => rfl⟩
  | _ => cases hi

/-- A word with a BUILD_* opcode runs a BUILD_*, or is rejected after the discard (R140, R170). -/
theorem execute_buildOpcode_cases (hw : opField w ∈ buildOpcodes) :
    (∃ i, i.mnemonic.isBuild = true ∧ ∀ s, execute w s = exec i s) ∨
    (∀ s, execute w s = .next (rejectedBuild .reservedNonzero s)) := by
  obtain ⟨m, hop, hm⟩ : ∃ m : Mnemonic, opField w = m.opcode ∧ m.isBuild = true := by
    have hall : ∀ op ∈ buildOpcodes, ∃ m ∈ Mnemonic.all, op = m.opcode ∧ m.isBuild = true := by decide
    obtain ⟨m, -, hm⟩ := hall _ hw
    exact ⟨m, hm⟩
  by_cases hr : w &&& m.format.reservedMask = 0
  · refine .inl ⟨instrOf m w, by rwa [instrOf_mnemonic], fun s => ?_⟩
    rw [execute, decode_of_legal (mnemonicOf?_eq_some_iff.mpr hop.symm) hr]
  · refine .inr fun s => ?_
    rw [execute_of_reserved hop hr]
    simp only [hm, if_true]
    rfl

/-! What leaves the frame alone (R166). -/

/-- The frame is as it was. -/
def Engine.SameFrame (e e' : Engine) : Prop := e'.fbuf = e.fbuf ∧ e'.fvalid = e.fvalid

theorem Engine.reject_sameFrame (e : Engine) (code : RejectCode) : e.SameFrame (e.reject code) :=
  ⟨Engine.reject_fbuf .., Engine.reject_fvalid ..⟩

/-- A push stages bytes and leaves the frame alone (R122). -/
theorem Engine.push_sameFrame {bytes : List Byte} (e : Engine) : e.SameFrame (e.command (Engine.push bytes)) := by
  refine Engine.command_keeps (p := e.SameFrame) (fun e' h => ?_) fun code => e.reject_sameFrame code
  unfold Engine.push at h
  split at h <;> cases h
  exact ⟨rfl, rfl⟩

/-- The commands that may touch the frame (R166). -/
def frameCommands : List Mnemonic := [.buildBegin, .buildBlock, .buildBlockV, .buildComplete, .frameClear, .softReset]

/-- Every other command leaves the frame alone (R166). -/
theorem exec_sameFrame (hi : i.mnemonic ∉ frameCommands) (h : exec i s = .next t) :
    s.engine.SameFrame t.engine := by
  cases i with
  | buildBegin _ | buildBlock _ _ | buildBlockV _ _ | buildComplete _ | frameClear | softReset =>
    simp [frameCommands, Instr.mnemonic] at hi
  | dinPush1 _ | dinPush2 _ _ | dinPush3 _ _ _ =>
    rw [perform_next h]
    exact Engine.push_sameFrame _
  | _ =>
    rw [perform_next h]
    exact ⟨rfl, rfl⟩

/-- A command that may touch the frame comes by a BUILD_* opcode, or by the one word of FRAME_CLEAR or of SOFT_RESET. -/
theorem word_of_frameCommand (hm : i.mnemonic ∈ frameCommands) (hd : decode w = .ok i) :
    opField w ∈ buildOpcodes ∨ w = 0x4F000000 ∨ w = 0x01000000 := by
  obtain ⟨hop, -, -⟩ := decode_eq_ok_iff.mp hd
  have hlegal := decodes_to_iff_legal.mp ⟨i, hd, rfl⟩
  cases i with
  | buildBegin _ | buildBlock _ _ | buildBlockV _ _ | buildComplete _ =>
    left
    rw [hop, ← isBuild_iff_opcode]
    rfl
  | frameClear =>
    right; left
    exact BitVec.and_allOnes.symm.trans hlegal
  | softReset =>
    right; right
    exact BitVec.and_allOnes.symm.trans hlegal
  | _ => simp [frameCommands, Instr.mnemonic] at hm

/-- A word refused for a reserved bit has the opcode of the command it is refused as (R77). -/
theorem opField_of_reserved (h : decode w = .error (.reservedNonzero m)) : opField w = m.opcode := by
  unfold decode at h
  split at h
  · cases h
  · next m' hm =>
    split at h <;> cases h
    exact (opcode_of_mnemonicOf? hm).symm

/-- Every other word leaves the frame alone, legal or not (R140, R166). -/
theorem execute_sameFrame (hw : ¬ (opField w ∈ buildOpcodes ∨ w = 0x4F000000 ∨ w = 0x01000000))
    (h : execute w s = .next t) : s.engine.SameFrame t.engine := by
  obtain ⟨i, hd, hx⟩ | ⟨_, -, hx⟩ | ⟨m, hd, hx⟩ := execute_cases w s
  · exact exec_sameFrame (fun hm => hw (word_of_frameCommand hm hd)) (hx.symm.trans h)
  · cases hx.symm.trans h
    exact Engine.reject_sameFrame ..
  · cases hx.symm.trans h
    have hm : m.isBuild ≠ true := fun hm =>
      hw (.inl (opField_of_reserved hd ▸ (isBuild_iff_opcode m).mp hm))
    simp only [State.onEngine_engine, if_neg hm]
    exact Engine.reject_sameFrame ..

end Sys2Proof.Machine

/-! SUPPORT. The statements about the framer (R140, R143 to R166). -/

namespace Sys2Proof.Machine

/-- Settles O29: BUILD_BEGIN's one check is the count; what passes it is framed. -/
theorem buildBeginBuildsTheBeginFrame : Obligations.BuildBeginBuildsTheBeginFrame := by
  refine ⟨fun v => ?_, fun s v => ⟨fun hcnt => ?_, fun hcnt => ?_⟩, reservedRejected .buildBegin⟩
  · rw [encode, Instr.mnemonic, matchWord_buildBegin, fieldBits]
  · rw [← flag_setWidth]
    exact perform_of_framed (Engine.build_buildBegin_framed v hcnt)
  · exact perform_of_rejectedBuild (Engine.build_buildBegin_badIvCount v hcnt)

/-- Settles O30: the frame carries all of din, which is the staged bytes and zeros where the staging buffer is clean. -/
theorem buildBlockBuildsTheBlockFrame : Obligations.BuildBlockBuildsTheBlockFrame := by
  refine ⟨fun addr len => ?_, fun s addr len => ⟨fun hlo hhi hlen => ?_, fun haddr => ?_, fun hlo hhi hlen => ?_⟩⟩
  · rw [encode, Instr.mnemonic, matchWord_buildBlock, fieldBits, BitVec.or_assoc]
    rfl
  · obtain ⟨fbuf, hx, hfbuf⟩ := perform_of_framed
      (Engine.build_buildBlock_framed s.engine 0x00 (addr_inRange_iff.mpr ⟨hlo, hhi⟩) hlen)
    exact ⟨fbuf, hx, hfbuf, fun hclean => din_eq_stagedBytes_zeros hclean ▸ hfbuf⟩
  · exact perform_of_rejectedBuild (Engine.build_buildBlock_badAddress s.engine 0x00 len haddr)
  · exact perform_of_rejectedBuild
      (Engine.build_buildBlock_badLength s.engine 0x00 (addr_inRange_iff.mpr ⟨hlo, hhi⟩) hlen)

/-- Settles O31: the two commands share their body but for the function byte, which is byte 11 of the frame. -/
theorem buildBlockVBuildsTheVerifyFrame : Obligations.BuildBlockVBuildsTheVerifyFrame := by
  refine ⟨fun addr len => ?_, fun s addr len => ⟨fun hlo hhi hlen => ?_, fun haddr => ?_, fun hlo hhi hlen => ?_⟩,
    fun s t u addr len hlo hhi hlen ht hu => ?_⟩
  · rw [encode, Instr.mnemonic, matchWord_buildBlockV, fieldBits, BitVec.or_assoc]
    rfl
  · exact perform_of_framed
      (Engine.build_buildBlock_framed s.engine 0x01 (addr_inRange_iff.mpr ⟨hlo, hhi⟩) hlen)
  · exact perform_of_rejectedBuild (Engine.build_buildBlock_badAddress s.engine 0x01 len haddr)
  · exact perform_of_rejectedBuild
      (Engine.build_buildBlock_badLength s.engine 0x01 (addr_inRange_iff.mpr ⟨hlo, hhi⟩) hlen)
  · have haddr := addr_inRange_iff.mpr ⟨hlo, hhi⟩
    have hprogram := (Engine.build_buildBlock_framed s.engine 0x00 haddr hlen).holdsFrame
    have hverify := (Engine.build_buildBlock_framed s.engine 0x01 haddr hlen).holdsFrame
    rw [perform_next ht, perform_next hu]
    exact ⟨byteAt_block_fn hprogram, byteAt_block_fn hverify,
      fun i _ hne hi => byteAt_block_eq hprogram hverify hne hi⟩

/-- Settles O32: BUILD_COMPLETE's one check is the function; the version is what is staged, truncated or filled up. -/
theorem buildCompleteBuildsTheCompleteFrame : Obligations.BuildCompleteBuildsTheCompleteFrame := by
  refine ⟨fun fn => ?_, fun s fn => ⟨fun hfn => ?_, fun h0 h1 h3 => ?_⟩, reservedRejected .buildComplete⟩
  · rw [encode, Instr.mnemonic, matchWord_buildComplete, fieldBits]
  · obtain ⟨fbuf, hx, hfbuf⟩ := perform_of_framed
      (Engine.build_buildComplete_framed s.engine (mem_functions_iff.mpr hfn))
    exact ⟨fbuf, hx, hfbuf, fun hclean => din_take_eq_stagedBytes_zeros hclean ▸ hfbuf⟩
  · have hfn : fn ∉ [0x00, 0x01, 0x03] := fun hmem => (mem_functions_iff.mp hmem).elim h0 (·.elim h1 h3)
    exact perform_of_rejectedBuild (Engine.build_buildComplete_badFunction s.engine hfn)

/-- Settles O34: a BUILD_* discards the frame first, so that neither its own frame nor its rejection depends on the old
one. -/
theorem noStaleFrameSurvivesABuild : Obligations.NoStaleFrameSurvivesABuild := by
  refine ⟨fun w s t hw h => ?_, fun w s fbuf fvalid hw => ?_, fun s => rfl⟩
  · obtain ⟨i, hi, hx⟩ | hrej := execute_buildOpcode_cases hw
    · obtain ⟨hperf, hformed⟩ | ⟨code, hrej⟩ := exec_build_cases hi ((hx s).symm.trans h)
      · obtain ⟨hvalid, hlast⟩ := hperf.fvalid_of_build hi
        exact .inl ⟨hvalid, hlast, hformed⟩
      · rw [hrej]
        exact .inr (Engine.rejectedBuild_noFrame ..)
    · cases (hrej s).symm.trans h
      exact .inr (Engine.rejectedBuild_noFrame ..)
  · obtain ⟨i, hi, hx⟩ | hrej := execute_buildOpcode_cases hw
    · obtain ⟨act, hact⟩ := exec_build_eq hi
      rw [hx, hx, hact, hact]
      rfl
    · rw [hrej, hrej]
      rfl

/-- Settles O36: an accepted BUILD_* is performed completely, so that its frame, length and CRC are in the buffer. -/
theorem builtFramesCheckThemselves : Obligations.BuiltFramesCheckThemselves := by
  refine fun i s t h ha => ⟨?_, ?_, ?_⟩
  · rintro ⟨v, rfl⟩
    exact Framed.crcCheck (performed_of_accepted_build rfl h ha) (by simp [Config.dinCap]) (by decide)
  · rintro ⟨addr, len, rfl | rfl⟩ <;>
      exact Framed.crcCheck (performed_of_accepted_build rfl h ha) (by simp [Config.dinCap]) (by decide)
  · rintro ⟨fn, rfl⟩
    exact Framed.crcCheck (performed_of_accepted_build rfl h ha) (by simp [Config.dinCap]) (by decide)

/-- Settles O37: a step that is no reset and gives no command keeps the engine, and a word of any other kind keeps the
frame. -/
theorem frameIsASnapshot : Obligations.FrameIsASnapshot := by
  intro s t ht
  cases hs : s.accesses with
  | nil =>
    rw [step, serveNext, hs] at ht
    cases ht
    exact .inl ⟨rfl, rfl⟩
  | cons ev rest =>
    cases ev with
    | reset | resetDuring h => exact .inr ⟨_, rest, rfl, .inl rfl⟩
    | access h =>
      cases hword : commandWord (.access h) with
      | none =>
        rw [step_of_noCommand hs ⟨rfl, hword⟩] at ht
        cases ht
        exact .inl ⟨rfl, rfl⟩
      | some w =>
        by_cases hw : opField w ∈ buildOpcodes ∨ w = 0x4F000000 ∨ w = 0x01000000
        · exact .inr ⟨_, rest, rfl, .inr ⟨w, hword, hw⟩⟩
        · obtain ⟨u, hx, htu⟩ := step_commandWord hs hword ht
          rw [htu]
          exact .inl (execute_sameFrame (s := { s with accesses := rest }) hw hx)

/-- Settles O33: FRAME_CLEAR has no check to fail, and is no BUILD_*, so that its rejection keeps the frame. -/
theorem frameClearDiscardsTheFrame : Obligations.FrameClearDiscardsTheFrame :=
  ⟨by decide, fun _ => rfl, reservedRejected .frameClear⟩

end Sys2Proof.Machine

/-! SUPPORT. The groups of elements that an accepted command changes one of at most: CRC, staging, frame, rejection (R173). -/

namespace Sys2Proof.Machine

variable {e e' : Engine} {s t : State} {i : Instr} {bytes frame : List Byte}

/-- `e'` is `e` after an acceptance that changed the CRC at most. -/
def Engine.CrcOnly (e e' : Engine) : Prop := ∃ crc, e' = { e with crc := crc, lastRej := false }

/-- `e'` is `e` after an acceptance that changed the session id and the staging buffer at most. -/
def Engine.StagingOnly (e e' : Engine) : Prop :=
  ∃ sid din dinCnt, e' = { e with sid := sid, din := din, dinCnt := dinCnt, lastRej := false }

/-- `e'` is `e` after an acceptance that changed the frame at most. -/
def Engine.FrameOnly (e e' : Engine) : Prop :=
  ∃ fbuf fvalid, e' = { e with fbuf := fbuf, fvalid := fvalid, lastRej := false }

/-- `e'` is `e` after an acceptance that changed the rejection record at most. -/
def Engine.RejectionOnly (e e' : Engine) : Prop :=
  ∃ err errcode, e' = { e with err := err, errcode := errcode, lastRej := false }

/-- An accepted push is one that fits (R122). -/
theorem Engine.stagingOnly_of_accepted_push (ha : (e.command (Engine.push bytes)).lastRej = false) :
    e.StagingOnly (e.command (Engine.push bytes)) := by
  by_cases hfit : e.dinCnt.val + bytes.length ≤ Config.dinCap
  · rw [Engine.command_ok (Engine.push_fits hfit)]
    exact ⟨_, _, _, rfl⟩
  · rw [Engine.command_error (Engine.push_overflow (not_le.mp hfit)), Engine.reject_lastRej] at ha
    cases ha

theorem Framed.frameOnly (h : Framed frame e e') : e.FrameOnly e' :=
  let ⟨fbuf, he, _⟩ := h
  ⟨fbuf, true, he⟩

/-- Every accepted command but SOFT_RESET changes one group at most (R173). -/
theorem exec_accepted_oneGroup (hi : i ≠ .softReset) (h : exec i s = .next t) (ha : t.engine.lastRej = false) :
    s.engine.CrcOnly t.engine ∨ s.engine.StagingOnly t.engine ∨ s.engine.FrameOnly t.engine ∨
      s.engine.RejectionOnly t.engine := by
  cases i with
  | softReset => exact absurd rfl hi
  | nop | crcInit | crcByte _ | crcDin =>
    left
    rw [perform_next h]
    exact ⟨_, rfl⟩
  | dinClear | sidLo _ | sidHi _ =>
    right; left
    rw [perform_next h]
    exact ⟨_, _, _, rfl⟩
  | dinPush1 _ | dinPush2 _ _ | dinPush3 _ _ _ =>
    right; left
    rw [perform_next h] at ha ⊢
    exact Engine.stagingOnly_of_accepted_push ha
  | buildBegin _ | buildBlock _ _ | buildBlockV _ _ | buildComplete _ =>
    right; right; left
    exact Framed.frameOnly (performed_of_accepted_build rfl h ha)
  | frameClear =>
    right; right; left
    rw [perform_next h]
    exact ⟨_, _, rfl⟩
  | errClear =>
    right; right; right
    rw [perform_next h]
    exact ⟨_, _, rfl⟩

/-- SOFT_RESET leaves the engine as hardware reset does (R173, R200). -/
theorem exec_softReset_engine (h : exec .softReset s = .next t) : t.engine = Engine.reset := by
  rw [perform_next h]
  rfl

end Sys2Proof.Machine

/-! SUPPORT. The statements about the control commands (R171 to R173). -/

namespace Sys2Proof.Machine

/-- Settles O17: SOFT_RESET has no check to fail and leaves the engine of reset; each other command, where it is accepted,
has one group as its own. -/
theorem softResetGivesTheResetState : Obligations.SoftResetGivesTheResetState := by
  refine ⟨by decide, fun _ => rfl, fun s t h => ?_, fun _ _ _ hi h ha => exec_accepted_oneGroup hi h ha,
    reservedRejected .softReset⟩
  have hreset := exec_softReset_engine h
  exact ⟨hreset, (hardwareReset_engine s).trans hreset.symm, rfl⟩

/-- Settles O15: NOP has no check to fail and no effect before its acceptance. -/
theorem nopOnlyClearsLastRej : Obligations.NopOnlyClearsLastRej :=
  ⟨by decide, fun _ => rfl, reservedRejected .nop⟩

/-- Settles O16: ERR_CLEAR has no check to fail; its acceptance clears `last_rej` besides. A word refused for a reserved
bit is not ERR_CLEAR, so that it clears nothing. -/
theorem errClearClearsTheRejectionRecord : Obligations.ErrClearClearsTheRejectionRecord :=
  ⟨by decide, fun _ => rfl, reservedRejected .errClear⟩

end Sys2Proof.Machine

/-! SUPPORT. A command word is performed completely or rejected (R170, R181, R183), and the first rejection's code (R182). -/

namespace Sys2Proof.Machine

variable {e e' : Engine} {s t : State} {i : Instr} {w : Word} {m : Mnemonic} {op fn len : Byte} {addr : Half}
  {bytes : List Byte} {code : RejectCode}

/-- What step 2 of R170 leaves: by a BUILD_* opcode the frame is discarded. -/
def Engine.afterDiscard (op : Byte) (e : Engine) : Engine := if op ∈ buildOpcodes then e.discardFrame else e

theorem Engine.afterDiscard_opcode (m : Mnemonic) (e : Engine) :
    e.afterDiscard m.opcode = if m.isBuild then e.discardFrame else e := by
  simp only [Engine.afterDiscard, isBuild_iff_opcode]

theorem Engine.afterDiscard_of_unassigned (h : op ∉ assignedOpcodes) (e : Engine) : e.afterDiscard op = e := by
  have hsub : buildOpcodes ⊆ assignedOpcodes := by decide
  exact if_neg fun hop => h (hsub hop)

theorem Engine.afterDiscard_err (op : Byte) (e : Engine) : (e.afterDiscard op).err = e.err := by
  unfold Engine.afterDiscard
  split <;> rfl

/-- A push appends its bytes or is rejected (R122). -/
theorem Engine.push_appended_or_rejected (bytes : List Byte) (e : Engine) :
    Appended bytes e (e.command (Engine.push bytes)) ∨ ∃ code, e.command (Engine.push bytes) = e.reject code := by
  by_cases hfit : e.dinCnt.val + bytes.length ≤ Config.dinCap
  · rw [Engine.command_ok (Engine.push_fits hfit)]
    exact .inl ⟨_, _, rfl, rfl, toList_writeBytes _ _ _ hfit⟩
  · exact .inr ⟨_, Engine.command_error (Engine.push_overflow (not_le.mp hfit))⟩

/-- A decoded command is performed completely, or rejected (R183). -/
theorem exec_performed_or_rejected (h : exec i s = .next t) :
    Performed i s.engine t.engine ∨ ∃ code, t.engine = (s.engine.afterDiscard i.mnemonic.opcode).reject code := by
  cases i with
  | nop | softReset | errClear | crcInit | crcByte _ | crcDin | dinClear | frameClear =>
    rw [perform_next h]
    exact .inl rfl
  | dinPush1 _ | dinPush2 _ _ | dinPush3 _ _ _ =>
    rw [perform_next h]
    exact Engine.push_appended_or_rejected _ s.engine
  | sidLo imm16 =>
    obtain ⟨-, hload, -⟩ := sidLoLoadsTheLowHalf
    obtain ⟨sid, hx, hlo, hhi⟩ := hload s imm16
    cases hx.symm.trans h
    exact .inl ⟨sid, rfl, hlo, hhi⟩
  | sidHi imm16 =>
    obtain ⟨-, hload, -⟩ := sidHiLoadsTheHighHalf
    obtain ⟨sid, hx, hhi, hlo⟩ := hload s imm16
    cases hx.symm.trans h
    exact .inl ⟨sid, rfl, hhi, hlo⟩
  | buildBegin _ | buildBlock _ _ | buildBlockV _ _ | buildComplete _ =>
    rw [Engine.afterDiscard_opcode]
    exact (exec_build_cases rfl h).imp And.left id

/-- A word is performed completely as the command it decodes to, or rejected (R183). -/
theorem execute_performed_or_rejected (h : execute w s = .next t) :
    (∃ i, decode w = .ok i ∧ Performed i s.engine t.engine) ∨
    ∃ code, t.engine = (s.engine.afterDiscard (opField w)).reject code := by
  cases hm : mnemonicOf? (opField w) with
  | none =>
    have hop := mnemonicOf?_eq_none_iff.mp hm
    cases (execute_of_unassigned hop s).symm.trans h
    rw [Engine.afterDiscard_of_unassigned hop]
    exact .inr ⟨_, rfl⟩
  | some m =>
    have hop := (opcode_of_mnemonicOf? hm).symm
    rw [hop]
    by_cases hr : w &&& m.format.reservedMask = 0
    · have hd := decode_of_legal hm hr
      rw [execute, hd] at h
      obtain hperf | hrej := exec_performed_or_rejected h
      · exact .inl ⟨_, hd, hperf⟩
      · rw [instrOf_mnemonic] at hrej
        exact .inr hrej
    · cases (execute_of_reserved hop hr s).symm.trans h
      rw [Engine.afterDiscard_opcode]
      exact .inr ⟨_, rfl⟩

/-- A command performed completely is accepted (R170 step 5). -/
theorem Performed.lastRej (h : Performed i e e') : e'.lastRej = false := by
  cases i with
  | nop | softReset | errClear | crcInit | crcByte _ | crcDin | dinClear | frameClear =>
    cases h
    rfl
  | dinPush1 _ | dinPush2 _ _ | dinPush3 _ _ _ =>
    obtain ⟨_, _, rfl, -⟩ := h
    rfl
  | sidLo _ | sidHi _ =>
    obtain ⟨_, rfl, -⟩ := h
    rfl
  | buildBegin _ | buildBlock _ _ | buildBlockV _ _ | buildComplete _ => exact Framed.lastRej h

/-- A word that leaves `last_rej` 1 was rejected (R181, R183). -/
theorem rejected_of_lastRej (h : execute w s = .next t) (hrej : t.engine.lastRej = true) :
    ∃ code, t.engine = (s.engine.afterDiscard (opField w)).reject code := by
  obtain ⟨i, -, hperf⟩ | hrejected := execute_performed_or_rejected h
  · rw [hperf.lastRej] at hrej
    cases hrej
  · exact hrejected

/-! The code of a first rejection (R181, R182). -/

/-- The first rejection since the last clear records its code (R181). -/
theorem Engine.reject_errcode_of_no_err (h : e.err = false) (code : RejectCode) :
    (e.reject code).errcode = code.code := by
  simp [h]

/-- A command that rejects, before or after a discard, records its code where none is recorded. -/
theorem errcode_of_perform_reject {f : Engine → Engine} (herr : e.err = false) (hf : f s.engine = e.reject code)
    (h : perform f s = .next t) : t.engine.errcode = code.code := by
  rw [perform_next h, State.onEngine_engine, hf, Engine.reject_errcode_of_no_err herr]

/-- BUILD_BLOCK and BUILD_BLOCK_V check the address before the length (R150, R182). -/
theorem errcode_of_buildBlock (herr : s.engine.err = false)
    (h : perform (Engine.build (Engine.buildBlock fn addr len)) s = .next t) :
    (addr < 0x1000 ∨ 0x7FFF < addr → t.engine.errcode = 0x04) ∧
    (0x1000 ≤ addr → addr ≤ 0x7FFF → 0x80 < len → t.engine.errcode = 0x05) :=
  ⟨fun haddr => errcode_of_perform_reject (e := s.engine.discardFrame) herr
      (Engine.build_buildBlock_badAddress s.engine fn len haddr) h,
    fun hlo hhi hlen => errcode_of_perform_reject (e := s.engine.discardFrame) herr
      (Engine.build_buildBlock_badLength s.engine fn (addr_inRange_iff.mpr ⟨hlo, hhi⟩) hlen) h⟩

/-- A push that does not fit records DIN_OVERFLOW (R122, R180). -/
theorem errcode_of_push_overflow (herr : s.engine.err = false)
    (h : perform (Engine.command (Engine.push bytes)) s = .next t)
    (hover : Config.dinCap < s.engine.dinCnt.val + bytes.length) : t.engine.errcode = 0x03 :=
  errcode_of_perform_reject herr (Engine.command_error (Engine.push_overflow hover)) h

end Sys2Proof.Machine

/-! SUPPORT. The statements about exceptions (R181 to R183). -/

namespace Sys2Proof.Machine

/-- Settles O10: a command's checks decide between its whole effect and its rejection, and a word that is no command is
rejected; neither touches the host's side. -/
theorem commandsAreAcceptedOrRejectedPrecisely : Obligations.CommandsAreAcceptedOrRejectedPrecisely := by
  intro w s
  obtain ⟨f, hx⟩ := execute_next w s
  exact ⟨_, hx, rfl, rfl, rfl, execute_performed_or_rejected hx⟩

/-- Settles O13: the decoder's checks come first, and a body's checks in its own order; the word of the last clause is a
BUILD_BLOCK whose address and length are both out of range. -/
theorem firstFailedCheckIsRecorded : Obligations.FirstFailedCheckIsRecorded := by
  refine ⟨?_, ?_, ?_, ?_, ?_, ?_, ?_⟩
  · intro w s t herr hop h
    exact errcode_of_perform_reject herr rfl ((execute_of_unassigned hop s).symm.trans h)
  · intro m w s t herr hop hr h
    have hdiscard : (s.engine.afterDiscard m.opcode).err = false := by
      rw [Engine.afterDiscard_err, herr]
    exact errcode_of_perform_reject hdiscard (by rw [Engine.afterDiscard_opcode])
      ((execute_of_reserved hop hr s).symm.trans h)
  · rintro i addr len s t (rfl | rfl) herr h <;> exact errcode_of_buildBlock herr h
  · intro v s t herr hcnt h
    exact errcode_of_perform_reject (e := s.engine.discardFrame) herr (Engine.build_buildBegin_badIvCount v hcnt) h
  · intro fn s t herr h0 h1 h3 h
    have hfn : fn ∉ [0x00, 0x01, 0x03] := fun hmem => (mem_functions_iff.mp hmem).elim h0 (·.elim h1 h3)
    exact errcode_of_perform_reject (e := s.engine.discardFrame) herr
      (Engine.build_buildComplete_badFunction s.engine hfn) h
  · rintro i k s t (⟨b0, rfl, rfl⟩ | ⟨b0, b1, rfl, rfl⟩ | ⟨b0, b1, b2, rfl, rfl⟩) herr hover h <;>
      exact errcode_of_push_overflow herr h hover
  · intro s t herr h
    have hd : decode 0x41FF0FFF = .ok (.buildBlock 0x0FFF 0xFF) := by decide
    rw [execute, hd] at h
    exact (errcode_of_buildBlock herr h).left (.inl (by decide))

/-- Settles O11: what a word leaves that is not accepted is its rejection, and a write to CMD is answered as completed
whatever its word does. -/
theorem rejectionRecordsTheFirstCode : Obligations.RejectionRecordsTheFirstCode := by
  refine ⟨fun code e => Engine.reject_eq e code, fun w s t h hlast => ?_, fun s rest w hs => ?_⟩
  · obtain ⟨code, hrej⟩ := rejected_of_lastRej h hlast
    obtain ⟨f, hx⟩ := execute_next w s
    cases hx.symm.trans h
    exact ⟨code, congrArg (fun e => { s with engine := e }) hrej⟩
  · have hcmd : target? ⟨0x000, 4, 1, .write w⟩ = some (.command w) :=
      target?_eq_command_iff.mpr ⟨⟨rfl, rfl, rfl⟩, rfl, rfl⟩
    obtain ⟨f, hx, hp⟩ := performWindow_of_command hcmd { s with accesses := rest }
    exact ⟨_, _, hx, (step_window hs).trans hp, rfl, rfl, rfl⟩

end Sys2Proof.Machine

/-! SUPPORT. What the reset engine's registers read (R30 to R35, R200), and the step that takes a hardware reset. -/

namespace Sys2Proof.Machine

variable {s : State} {rest : List HostEvent}

/-- Four bytes of a buffer of zeros pack to the word 0 (R34, R35). -/
theorem pack32_replicate_zero (n i : Nat) : pack32 (Vector.replicate n (0x00 : Byte)) i = 0 := by
  simp only [pack32, byteAt_replicate]
  rfl

/-- STATUS of the reset engine has no flag, no code, no frame length and no count (R30, R200). -/
theorem statusWord_reset : statusWord Engine.reset = 0x00000000 := by
  have hflen : byteAt Engine.reset.fbuf 0 = 0x00 := byteAt_replicate _ 0
  rw [statusWord, hflen]
  decide

/-- A step that takes a reset between accesses is the hardware reset (R57, R200). -/
theorem step_reset (hs : s.accesses = .reset :: rest) :
    step s = .next (hardwareReset { s with accesses := rest }) := by
  rw [step, serveNext, hs]
  rfl

end Sys2Proof.Machine

/-! SUPPORT. The statement about hardware reset (R200). -/

namespace Sys2Proof.Machine

/-- Settles O52: a reset event and SOFT_RESET both leave `Engine.reset`, whose registers read 0 because its flags, its
counts and both its buffers are 0 and the final exclusive-or of the CRC undoes its initial value. -/
theorem hardwareResetGivesTheStatedValues : Obligations.HardwareResetGivesTheStatedValues := by
  refine ⟨⟨rfl, rfl, rfl, rfl, rfl, rfl, rfl, rfl, rfl⟩, fun s rest hs => ?_, fun s t => exec_softReset_engine⟩
  refine ⟨_, step_reset hs, rfl, rfl, ?_⟩
  rw [hardwareReset_engine]
  have hcrc : readRegister .crcValue Engine.reset = 0x00000000 := readRegister_crcValue_of_fold (fed := []) rfl
  exact ⟨statusWord_reset, hcrc, rfl, rfl, fun k => pack32_replicate_zero _ _, fun k => pack32_replicate_zero _ _⟩

end Sys2Proof.Machine

/-! SUPPORT. The fields of a word: what stands in a field's place reads back, and a field in its place is its word's bits
there (R70, R71). -/

namespace Sys2Proof.Machine

variable {k lo n sh : Nat} {i : Instr} {m : Mnemonic} {w : Word}

/-- A value put in place reads back from its place. -/
theorem extractLsb'_field (x : BitVec k) (h : sh + k ≤ 32) : (x.setWidth 32 <<< sh).extractLsb' sh k = x := by
  apply BitVec.eq_of_getLsbD_eq
  intro j hj
  have hj32 : sh + j < 32 := by omega
  simp [hj, hj32]

/-- A value put in place shows nothing elsewhere. -/
theorem extractLsb'_field_disjoint (x : BitVec k) (h : lo + n ≤ sh ∨ sh + k ≤ lo) :
    (x.setWidth 32 <<< sh).extractLsb' lo n = 0 := by
  apply BitVec.eq_of_getLsbD_eq
  intro j hj
  simp only [BitVec.getLsbD_extractLsb', BitVec.getLsbD_shiftLeft, BitVec.getLsbD_setWidth, BitVec.ofNat_eq_ofNat,
    BitVec.getLsbD_zero]
  obtain hlow | hhigh := h
  · simp [show lo + j < sh by omega]
  · simp [BitVec.getLsbD_of_ge x (lo + j - sh) (by omega)]

/-- The same for a value in the lowest place. -/
theorem extractLsb'_lowField (x : BitVec k) (h : k ≤ 32) : (x.setWidth 32).extractLsb' 0 k = x := by
  simpa using extractLsb'_field (sh := 0) x (by omega)

theorem extractLsb'_lowField_disjoint (x : BitVec k) (h : k ≤ lo) : (x.setWidth 32).extractLsb' lo n = 0 := by
  simpa using extractLsb'_field_disjoint (sh := 0) (n := n) x (.inr (by omega))

/-- Below the opcode the word of an instruction has its operand fields. -/
theorem extractLsb'_encode (i : Instr) (h : lo + n ≤ 24) :
    (encode i).extractLsb' lo n = (fieldBits i).extractLsb' lo n := by
  rw [encode, BitVec.extractLsb'_or, Mnemonic.matchWord, extractLsb'_field_disjoint _ (.inl h)]
  exact BitVec.zero_or

/-- The fields of an instruction's word are its operands (R71, R80). -/
theorem instrOf_encode (i : Instr) : instrOf i.mnemonic (encode i) = i := by
  cases i with
  | nop | softReset | errClear | crcInit | crcDin | dinClear | frameClear => rfl
  | crcByte _ | dinPush1 _ | dinPush2 _ _ | dinPush3 _ _ _ | sidLo _ | sidHi _ | buildBegin _ | buildBlock _ _
  | buildBlockV _ _ | buildComplete _ =>
    simp (disch := omega) only [Instr.mnemonic, instrOf, b0Field, b1Field, b2Field, halfField, vField,
      extractLsb'_encode, fieldBits, BitVec.extractLsb'_or, extractLsb'_field, extractLsb'_field_disjoint,
      extractLsb'_lowField, extractLsb'_lowField_disjoint, BitVec.ofNat_eq_ofNat, BitVec.or_zero, BitVec.zero_or]

/-- The word of an instruction is legal for its row: `(w AND mask) = match` (R75). -/
theorem encode_legal (i : Instr) : encode i &&& i.mnemonic.legalMask = i.mnemonic.matchWord :=
  match i with
  | .nop => Laws.EncodedLegal.nop
  | .softReset => Laws.EncodedLegal.softReset
  | .errClear => Laws.EncodedLegal.errClear
  | .crcInit => Laws.EncodedLegal.crcInit
  | .crcByte b0 => Laws.EncodedLegal.crcByte b0
  | .crcDin => Laws.EncodedLegal.crcDin
  | .dinClear => Laws.EncodedLegal.dinClear
  | .dinPush1 b0 => Laws.EncodedLegal.dinPush1 b0
  | .dinPush2 b0 b1 => Laws.EncodedLegal.dinPush2 b0 b1
  | .dinPush3 b0 b1 b2 => Laws.EncodedLegal.dinPush3 b0 b1 b2
  | .sidLo imm16 => Laws.EncodedLegal.sidLo imm16
  | .sidHi imm16 => Laws.EncodedLegal.sidHi imm16
  | .buildBegin v => Laws.EncodedLegal.buildBegin v
  | .buildBlock addr len => Laws.EncodedLegal.buildBlock addr len
  | .buildBlockV addr len => Laws.EncodedLegal.buildBlockV addr len
  | .buildComplete fn => Laws.EncodedLegal.buildComplete fn
  | .frameClear => Laws.EncodedLegal.frameClear

/-- The bits of a field in its place. -/
def fieldMask (lo n : Nat) : Word := (BitVec.allOnes n).setWidth 32 <<< lo

/-- A field of a word, put back in its place, is the word's bits there. -/
theorem field_in_place (w : Word) (lo n : Nat) :
    (w.extractLsb' lo n).setWidth 32 <<< lo = w &&& fieldMask lo n := by
  apply BitVec.eq_of_getLsbD_eq
  intro j hj
  simp only [fieldMask, BitVec.getLsbD_and, BitVec.getLsbD_shiftLeft, BitVec.getLsbD_setWidth,
    BitVec.getLsbD_extractLsb', BitVec.getLsbD_allOnes]
  by_cases hlo : j < lo
  · simp [hlo]
  · rw [Nat.add_sub_cancel' (Nat.le_of_not_lt hlo), Bool.and_comm]
    grind

theorem lowField_in_place (w : Word) (n : Nat) : (w.extractLsb' 0 n).setWidth 32 = w &&& fieldMask 0 n := by
  simpa using field_in_place w 0 n

/-- The operand fields of what a word decodes to are the word's bits that are neither opcode nor reserved (R71). -/
theorem fieldBits_instrOf (m : Mnemonic) (w : Word) : fieldBits (instrOf m w) = w &&& ~~~m.legalMask := by
  cases m with
  | nop | softReset | errClear | crcInit | crcDin | dinClear | frameClear => exact BitVec.and_zero.symm
  | crcByte | dinPush1 | dinPush2 | dinPush3 | sidLo | sidHi | buildBegin | buildBlock | buildBlockV | buildComplete =>
    simp only [instrOf, fieldBits, b0Field, b1Field, b2Field, halfField, vField, field_in_place, lowField_in_place,
      ← BitVec.and_or_distrib_left]
    exact congrArg (w &&& ·) (by decide)

/-- A word that decodes is its opcode and the bits of its fields, and so its instruction's word. -/
theorem encode_of_decode (h : decode w = .ok i) : encode i = w := by
  obtain ⟨-, -, hi⟩ := decode_eq_ok_iff.mp h
  have hlegal : w &&& i.mnemonic.legalMask = i.mnemonic.matchWord := decodes_to_iff_legal.mp ⟨i, h, rfl⟩
  calc encode i
    _ = i.mnemonic.matchWord ||| fieldBits (instrOf i.mnemonic w) := by rw [← hi, encode]
    _ = (w &&& i.mnemonic.legalMask) ||| (w &&& ~~~i.mnemonic.legalMask) := by rw [hlegal, fieldBits_instrOf]
    _ = w := by rw [← BitVec.and_or_distrib_left, BitVec.or_not_self, BitVec.and_allOnes]

/-- The word of an instruction decodes, to it. -/
theorem decode_encode (i : Instr) : decode (encode i) = .ok i := by
  obtain ⟨hop, hres⟩ := (legal_iff i.mnemonic (encode i)).mp (encode_legal i)
  exact decode_eq_ok_iff.mpr ⟨hop, hres, (instrOf_encode i).symm⟩

/-- The one word of a command without operands. -/
theorem word_of_decode (h : decode w = .ok i) (hf : fieldBits i = 0) : w = i.mnemonic.matchWord := by
  rw [← encode_of_decode h, encode, hf]
  exact BitVec.or_zero

end Sys2Proof.Machine

/-! SUPPORT. The statements about decoding and encoding (R70 to R80). -/

namespace Sys2Proof.Machine

/-- Settles O1: the word of an instruction is legal for its row, and its fields read back. -/
theorem decodeOfEncodeIsTheInstruction : Obligations.DecodeOfEncodeIsTheInstruction :=
  decode_encode

/-- Settles O2: a word that decodes is the row's `match` and the bits that the mask leaves to the fields. -/
theorem encodeOfDecodeIsTheWord : Obligations.EncodeOfDecodeIsTheWord :=
  fun _ _ => encode_of_decode

/-- Settles O7: the decoder evaluates on each word. -/
theorem writtenOutWordsDecode : Obligations.WrittenOutWordsDecode := by
  unfold Obligations.WrittenOutWordsDecode
  decide

end Sys2Proof.Machine

/-! SUPPORT. What a step can do to the engine, said once, and from it the induction step of an invariant (R53, R57,
R202). -/

namespace Sys2Proof.Machine

variable {s t : State} {w : Word} {m : Mnemonic}

/-- A step leaves the engine as it was, or it takes a hardware reset, or it runs a command word. -/
theorem step_engine_cases (h : step s = .next t) :
    t.engine = s.engine ∨
    ∃ ev rest, s.accesses = ev :: rest ∧
      ((isHardwareReset ev = true ∧ t.engine = Engine.reset) ∨
      ∃ w u, commandWord ev = some w ∧ execute w { s with accesses := rest } = .next u ∧ t.engine = u.engine) := by
  cases hs : s.accesses with
  | nil =>
    rw [step, serveNext, hs] at h
    cases h
    exact .inl rfl
  | cons ev rest =>
    cases ev with
    | reset | resetDuring _ => exact .inr ⟨_, rest, rfl, .inl ⟨rfl, step_hardwareReset_engine hs rfl h⟩⟩
    | access a =>
      cases hw : commandWord (.access a) with
      | none =>
        rw [step_of_noCommand hs ⟨rfl, hw⟩] at h
        cases h
        exact .inl rfl
      | some w =>
        obtain ⟨u, hx, htu⟩ := step_commandWord hs hw h
        exact .inr ⟨_, rest, rfl, .inr ⟨w, u, hw, hx, htu⟩⟩

/-- What commands, the discard of a frame and rejections keep, a command word keeps. -/
theorem execute_keeps {p : Engine → Prop} (hexec : ∀ {i s t}, p s.engine → exec i s = .next t → p t.engine)
    (hdiscard : ∀ {e : Engine}, p e → p e.discardFrame) (hreject : ∀ {e : Engine} code, p e → p (e.reject code))
    (hp : p s.engine) (h : execute w s = .next t) : p t.engine := by
  obtain ⟨i, -, hx⟩ | ⟨_, -, hx⟩ | ⟨m, -, hx⟩ := execute_cases w s
  · exact hexec hp (hx.symm.trans h)
  · cases hx.symm.trans h
    exact hreject _ hp
  · cases hx.symm.trans h
    rw [State.onEngine_engine]
    split
    · exact hreject _ (hdiscard hp)
    · exact hreject _ hp

/-- What holds of the reset engine and is kept by commands, by the discard of a frame and by rejections, every step
keeps. -/
theorem step_keeps {p : Engine → Prop} (hreset : p Engine.reset)
    (hexec : ∀ {i s t}, p s.engine → exec i s = .next t → p t.engine)
    (hdiscard : ∀ {e : Engine}, p e → p e.discardFrame) (hreject : ∀ {e : Engine} code, p e → p (e.reject code))
    (hp : p s.engine) (h : step s = .next t) : p t.engine := by
  obtain hsame | ⟨ev, rest, -, ⟨-, hres⟩ | ⟨w, u, -, hx, htu⟩⟩ := step_engine_cases h
  · rwa [hsame]
  · rwa [hres]
  · rw [htu]
    exact execute_keeps (s := { s with accesses := rest }) hexec hdiscard hreject hp hx

end Sys2Proof.Machine

/-! SUPPORT. The three invariants (R25 to R27): the reset engine meets them, and each command keeps them. -/

namespace Sys2Proof.Machine

variable {e e' : Engine} {s t : State} {i : Instr} {w : Word} {bytes : List Byte} {code : RejectCode}

/-! The zeros of the staging buffer (R25). -/

theorem Engine.reset_stagingClean : Engine.reset.StagingClean := fun i _ => byteAt_replicate _ i

/-- What leaves the staging buffer and its count alone keeps the zeros. -/
theorem Engine.StagingClean.of_sameStaging (hc : e.StagingClean) (hdin : e'.din = e.din) (hcnt : e'.dinCnt = e.dinCnt) :
    e'.StagingClean := by
  intro i hi
  rw [hdin]
  exact hc i (hcnt ▸ hi)

theorem Engine.StagingClean.reject (code : RejectCode) (hc : e.StagingClean) : (e.reject code).StagingClean :=
  hc.of_sameStaging (Engine.reject_din ..) (Engine.reject_dinCnt ..)

/-- The commands that may change the staging buffer (R25). -/
def stagingCommands : List Mnemonic := [.dinClear, .dinPush1, .dinPush2, .dinPush3, .softReset]

/-- Every other command leaves the staging buffer alone (R25). -/
theorem exec_staging_of_not_stagingCommand (hi : i.mnemonic ∉ stagingCommands) (h : exec i s = .next t) :
    t.engine.din = s.engine.din ∧ t.engine.dinCnt = s.engine.dinCnt := by
  cases i with
  | dinClear | dinPush1 _ | dinPush2 _ _ | dinPush3 _ _ _ | softReset => simp [stagingCommands, Instr.mnemonic] at hi
  | nop | errClear | crcInit | crcByte _ | crcDin | sidLo _ | sidHi _ | frameClear =>
    rw [perform_next h]
    exact ⟨rfl, rfl⟩
  | buildBegin _ | buildBlock _ _ | buildBlockV _ _ | buildComplete _ =>
    obtain ⟨⟨_, hframed, -⟩, -⟩ | ⟨code, hrej⟩ := exec_build_cases rfl h
    · rw [hframed]
      exact ⟨rfl, rfl⟩
    · rw [hrej]
      exact ⟨Engine.reject_din .., Engine.reject_dinCnt ..⟩

/-- A push, accepted or rejected, keeps the zeros (R122). -/
theorem Engine.StagingClean.push (hc : e.StagingClean) : (e.command (Engine.push bytes)).StagingClean :=
  Engine.command_keeps (p := Engine.StagingClean)
    (fun _ h => (Engine.push_keeps_stagingClean hc h).of_sameStaging rfl rfl) fun code => hc.reject code

/-- Every command keeps the zeros of the staging buffer (R25). -/
theorem exec_keeps_stagingClean (hc : s.engine.StagingClean) (h : exec i s = .next t) : t.engine.StagingClean := by
  cases i with
  | dinPush1 _ | dinPush2 _ _ | dinPush3 _ _ _ =>
    rw [perform_next h]
    exact hc.push
  | dinClear | softReset =>
    rw [perform_next h]
    exact Engine.reset_stagingClean.of_sameStaging rfl rfl
  | _ =>
    obtain ⟨hdin, hcnt⟩ := exec_staging_of_not_stagingCommand (by simp [stagingCommands, Instr.mnemonic]) h
    exact hc.of_sameStaging hdin hcnt

/-! The frame (R26). -/

/-- An engine without a frame, its buffer all zero, meets the invariant. -/
theorem Engine.frameClean_of_noFrame (hv : e.fvalid = false) (hf : e.fbuf = Vector.replicate Config.fbufSize 0x00) :
    e.FrameClean :=
  ⟨fun _ => hf, fun h => by simp [hv] at h⟩

/-- An engine with FVALID and a formed frame meets the invariant. -/
theorem Engine.frameClean_of_formed (hv : e.fvalid = true) (hf : e.FrameFormed) : e.FrameClean :=
  ⟨fun h => by simp [hv] at h, fun _ => hf⟩

theorem Engine.reset_frameClean : Engine.reset.FrameClean := Engine.frameClean_of_noFrame rfl rfl

theorem Engine.discardFrame_frameClean (e : Engine) : e.discardFrame.FrameClean := Engine.frameClean_of_noFrame rfl rfl

/-- The invariant speaks of the frame alone. -/
theorem Engine.FrameClean.of_sameFrame (hc : e.FrameClean) (h : e.SameFrame e') : e'.FrameClean := by
  obtain ⟨hfbuf, hfvalid⟩ := h
  unfold Engine.FrameClean Engine.FrameFormed at *
  rwa [hfbuf, hfvalid]

theorem Engine.FrameClean.reject (code : RejectCode) (hc : e.FrameClean) : (e.reject code).FrameClean :=
  hc.of_sameFrame (e.reject_sameFrame code)

/-- Every command keeps the frame formed: a BUILD_* leaves its own or none, FRAME_CLEAR and SOFT_RESET leave none, and
the others touch none (R26, R140, R166). -/
theorem exec_keeps_frameClean (hc : s.engine.FrameClean) (h : exec i s = .next t) : t.engine.FrameClean := by
  cases i with
  | buildBegin _ | buildBlock _ _ | buildBlockV _ _ | buildComplete _ =>
    obtain ⟨hperf, hformed⟩ | ⟨code, hrej⟩ := exec_build_cases rfl h
    · obtain ⟨hvalid, -⟩ := hperf.fvalid_of_build rfl
      exact Engine.frameClean_of_formed hvalid hformed
    · rw [hrej]
      exact (Engine.discardFrame_frameClean _).reject code
  | frameClear | softReset =>
    rw [perform_next h]
    exact Engine.frameClean_of_noFrame rfl rfl
  | _ => exact hc.of_sameFrame (exec_sameFrame (by simp [frameCommands, Instr.mnemonic]) h)

/-! The rejection record (R27). -/

theorem Engine.reset_recordClean : Engine.reset.RecordClean := ⟨by decide, by decide, by decide⟩

/-- The rejection record, but for LAST_REJ, is as it was. -/
def Engine.SameRecord (e e' : Engine) : Prop := e'.err = e.err ∧ e'.errcode = e.errcode

theorem Engine.SameRecord.trans {e'' : Engine} (h : e.SameRecord e') (h' : e'.SameRecord e'') : e.SameRecord e'' :=
  ⟨h'.left.trans h.left, h'.right.trans h.right⟩

/-- An acceptance that leaves the rejection record alone keeps it clean. -/
theorem Engine.RecordClean.of_sameRecord (hc : e.RecordClean) (h : e.SameRecord e') (ha : e'.lastRej = false) :
    e'.RecordClean := by
  obtain ⟨hiff, hle, -⟩ := hc
  obtain ⟨herr, hcode⟩ := h
  refine ⟨?_, ?_, fun hrej => ?_⟩
  · rwa [hcode, herr]
  · rwa [hcode]
  · simp [ha] at hrej

/-- The codes are 1 to 7 (R180). -/
theorem RejectCode.code_range (code : RejectCode) : code.code ≠ 0x00 ∧ code.code ≤ 0x07 := by
  cases code <;> decide

/-- A rejection records a code where none is recorded (R181). -/
theorem Engine.RecordClean.reject (code : RejectCode) (hc : e.RecordClean) : (e.reject code).RecordClean := by
  obtain ⟨hiff, hle, -⟩ := hc
  obtain ⟨hne, hcode⟩ := code.code_range
  unfold Engine.RecordClean
  rw [Engine.reject_errcode, Engine.reject_err]
  cases herr : e.err with
  | false => simpa using ⟨hne, hcode⟩
  | true =>
    have hrecorded : e.errcode ≠ 0x00 := fun hzero => by simp [hiff.mp hzero] at herr
    simpa using ⟨hrecorded, hle⟩

/-- A recorded rejection stays when another command is rejected (R181). -/
theorem Engine.reject_sameRecord (herr : e.err = true) (code : RejectCode) : e.SameRecord (e.reject code) :=
  ⟨by rw [Engine.reject_err, herr], by rw [Engine.reject_errcode, if_pos herr]⟩

/-- The commands that may clear the rejection record (R172, R173). -/
def recordCommands : List Mnemonic := [.errClear, .softReset]

/-- A command performed completely leaves the rejection record alone, unless it is one of these (R27). -/
theorem Performed.sameRecord (hi : i.mnemonic ∉ recordCommands) (h : Performed i e e') : e.SameRecord e' := by
  cases i with
  | errClear | softReset => simp [recordCommands, Instr.mnemonic] at hi
  | nop | crcInit | crcByte _ | crcDin | dinClear | frameClear =>
    cases h
    exact ⟨rfl, rfl⟩
  | dinPush1 _ | dinPush2 _ _ | dinPush3 _ _ _ =>
    obtain ⟨_, _, rfl, -⟩ := h
    exact ⟨rfl, rfl⟩
  | sidLo _ | sidHi _ | buildBegin _ | buildBlock _ _ | buildBlockV _ _ | buildComplete _ =>
    obtain ⟨_, rfl, -⟩ := h
    exact ⟨rfl, rfl⟩

/-- The discard of step 2 of R170 leaves the rejection record alone. -/
theorem Engine.afterDiscard_sameRecord (op : Byte) (e : Engine) : e.SameRecord (e.afterDiscard op) := by
  unfold Engine.afterDiscard
  split <;> exact ⟨rfl, rfl⟩

theorem Engine.RecordClean.discardFrame (hc : e.RecordClean) : e.discardFrame.RecordClean := hc

theorem Engine.RecordClean.afterDiscard (op : Byte) (hc : e.RecordClean) : (e.afterDiscard op).RecordClean := by
  unfold Engine.afterDiscard
  split
  · exact hc.discardFrame
  · exact hc

/-- Every command keeps the rejection record clean (R27). -/
theorem exec_keeps_recordClean (hc : s.engine.RecordClean) (h : exec i s = .next t) : t.engine.RecordClean := by
  obtain hperf | ⟨code, hrej⟩ := exec_performed_or_rejected h
  · by_cases hi : i.mnemonic ∈ recordCommands
    · cases i with
      | errClear | softReset =>
        rw [perform_next h]
        exact Engine.reset_recordClean
      | _ => simp [recordCommands, Instr.mnemonic] at hi
    · exact hc.of_sameRecord (hperf.sameRecord hi) hperf.lastRej
  · rw [hrej]
    exact (hc.afterDiscard _).reject code

/-- A recorded rejection stays over any other command, which is performed or rejected (R27, R185). -/
theorem exec_sameRecord (hi : i.mnemonic ∉ recordCommands) (h : exec i s = .next t)
    (hkept : t.engine.lastRej = false ∨ s.engine.err = true) : s.engine.SameRecord t.engine := by
  obtain hperf | ⟨code, hrej⟩ := exec_performed_or_rejected h
  · exact hperf.sameRecord hi
  · have herr : s.engine.err = true := hkept.resolve_left (by simp [hrej])
    rw [hrej]
    exact (Engine.afterDiscard_sameRecord ..).trans
      (Engine.reject_sameRecord ((Engine.afterDiscard_err ..).trans herr) code)

/-- A word refused as no command leaves a recorded rejection alone (R181). -/
theorem execute_sameRecord_of_error {err : DecodeError} (hd : decode w = .error err) (herr : s.engine.err = true)
    (h : execute w s = .next t) : s.engine.SameRecord t.engine := by
  obtain ⟨i, hi, -⟩ | ⟨code, hrej⟩ := execute_performed_or_rejected h
  · cases hi.symm.trans hd
  · rw [hrej]
    exact (Engine.afterDiscard_sameRecord ..).trans
      (Engine.reject_sameRecord ((Engine.afterDiscard_err ..).trans herr) code)

/-- The commands that may clear the rejection record come by one word each (R172, R173). -/
theorem word_of_recordCommand (hi : i.mnemonic ∈ recordCommands) (hd : decode w = .ok i) :
    w = 0x02000000 ∨ w = 0x01000000 := by
  cases i with
  | errClear => exact .inl ((word_of_decode hd rfl).trans matchWord_errClear)
  | softReset => exact .inr ((word_of_decode hd rfl).trans matchWord_softReset)
  | _ => simp [recordCommands, Instr.mnemonic] at hi

/-- A recorded rejection stays over every other word (R185). -/
theorem execute_sameRecord (hw : ¬ (w = 0x02000000 ∨ w = 0x01000000)) (herr : s.engine.err = true)
    (h : execute w s = .next t) : s.engine.SameRecord t.engine := by
  cases hd : decode w with
  | error err => exact execute_sameRecord_of_error hd herr h
  | ok i =>
    rw [execute, hd] at h
    exact exec_sameRecord (fun hi => hw (word_of_recordCommand hi hd)) h (.inr herr)

end Sys2Proof.Machine

/-! SUPPORT. The statements about the invariants (R25 to R27, R185, R200). -/

namespace Sys2Proof.Machine

/-- Settles O38: both buffers of the reset engine are zero, and its rejection record is empty. -/
theorem resetIsSafe : Obligations.ResetIsSafe :=
  ⟨Engine.reset_stagingClean, Engine.reset_frameClean, Engine.reset_recordClean⟩

/-- Settles O39: only DIN_CLEAR, SOFT_RESET and the pushes touch the staging buffer; the first two empty it, and a push
writes below its new count. -/
theorem everyStepKeepsTheStagingZeros : Obligations.EveryStepKeepsTheStagingZeros := fun _ _ =>
  step_keeps Engine.reset_stagingClean exec_keeps_stagingClean (fun hc => hc.of_sameStaging rfl rfl)
    fun code hc => hc.reject code

/-- Settles O40: a BUILD_* leaves a formed frame or none, whatever frame it found, and nothing else writes one. -/
theorem everyStepKeepsTheFrameFormed : Obligations.EveryStepKeepsTheFrameFormed := fun _ _ =>
  step_keeps Engine.reset_frameClean exec_keeps_frameClean (fun _ => Engine.discardFrame_frameClean _)
    fun code hc => hc.reject code

/-- Settles O41: a rejection sets ERR with a code from 1 to 7, an acceptance clears LAST_REJ, and what clears ERR clears
the code. -/
theorem everyStepKeepsTheRejectionRecord : Obligations.EveryStepKeepsTheRejectionRecord := fun _ _ =>
  step_keeps Engine.reset_recordClean exec_keeps_recordClean Engine.RecordClean.discardFrame
    fun code hc => hc.reject code

/-- Settles O42: a step that is no reset and gives no command keeps the engine, and every word but those two keeps a
recorded rejection. -/
theorem recordedRejectionIsSticky : Obligations.RecordedRejectionIsSticky := by
  intro s t h herr
  obtain hsame | ⟨ev, rest, hs, ⟨hreset, -⟩ | ⟨w, u, hword, hx, htu⟩⟩ := step_engine_cases h
  · exact .inl ⟨hsame ▸ herr, by rw [hsame]⟩
  · exact .inr ⟨ev, rest, hs, .inl hreset⟩
  · by_cases hw : w = 0x02000000 ∨ w = 0x01000000
    · exact .inr ⟨ev, rest, hs, .inr (by simpa [hword] using hw)⟩
    · obtain ⟨hkept, hcode⟩ := execute_sameRecord (s := { s with accesses := rest }) hw herr hx
      rw [htu]
      exact .inl ⟨hkept.trans herr, hcode⟩

end Sys2Proof.Machine

/-! SUPPORT. What a command leaves alone (R23 to R27), why a decoded command is rejected (R180), and that the framer does
not see the CRC register (R141). -/

namespace Sys2Proof.Machine

variable {e e' : Engine} {s t : State} {i : Instr} {w : Word} {m : Mnemonic} {bytes : List Byte} {fn len : Byte}
  {addr : Half} {c : Word} {act : Engine → Except RejectCode Engine}

/-- The commands that may change `sid` (R24). -/
def sidCommands : List Mnemonic := [.sidLo, .sidHi, .softReset]

/-- A command performed completely leaves `sid` alone, unless it is one of these (R24). -/
theorem Performed.sid (hi : i.mnemonic ∉ sidCommands) (h : Performed i e e') : e'.sid = e.sid := by
  cases i with
  | sidLo _ | sidHi _ | softReset => simp [sidCommands, Instr.mnemonic] at hi
  | nop | errClear | crcInit | crcByte _ | crcDin | dinClear | frameClear =>
    cases h
    rfl
  | dinPush1 _ | dinPush2 _ _ | dinPush3 _ _ _ =>
    obtain ⟨_, _, rfl, -⟩ := h
    rfl
  | buildBegin _ | buildBlock _ _ | buildBlockV _ _ | buildComplete _ =>
    obtain ⟨_, rfl, -⟩ := h
    rfl

theorem Engine.afterDiscard_sid (op : Byte) (e : Engine) : (e.afterDiscard op).sid = e.sid := by
  unfold Engine.afterDiscard
  split <;> rfl

/-- Every other command leaves `sid` alone (R24). -/
theorem exec_sid_of_not_sidCommand (hi : i.mnemonic ∉ sidCommands) (h : exec i s = .next t) :
    t.engine.sid = s.engine.sid := by
  obtain hperf | ⟨code, hrej⟩ := exec_performed_or_rejected h
  · exact hperf.sid hi
  · rw [hrej, Engine.reject_sid, Engine.afterDiscard_sid]

/-! Why a decoded command is rejected. -/

/-- A push is rejected for one cause only (R122). -/
theorem errcode_of_rejected_push (herr : s.engine.err = false)
    (h : perform (Engine.command (Engine.push bytes)) s = .next t) (hrej : t.engine.lastRej = true) :
    t.engine.errcode = 0x03 := by
  by_cases hfit : s.engine.dinCnt.val + bytes.length ≤ Config.dinCap
  · rw [perform_push_fits hfit] at h
    cases h
    cases hrej
  · exact errcode_of_push_overflow herr h (not_le.mp hfit)

/-- A build that leaves `last_rej` 1 has not framed. -/
theorem not_framed_of_lastRej {frame : List Byte} (h : perform (Engine.build act) s = .next t)
    (hrej : t.engine.lastRej = true) : ¬ Framed frame s.engine (s.engine.build act) := by
  intro hframed
  rw [perform_next h, State.onEngine_engine, hframed.lastRej] at hrej
  cases hrej

/-- BUILD_BLOCK and BUILD_BLOCK_V are rejected for their address or their length (R150, R155). -/
theorem errcode_of_rejected_block (herr : s.engine.err = false)
    (h : perform (Engine.build (Engine.buildBlock fn addr len)) s = .next t) (hrej : t.engine.lastRej = true) :
    t.engine.errcode = 0x04 ∨ t.engine.errcode = 0x05 := by
  obtain ⟨hbadAddress, hbadLength⟩ := errcode_of_buildBlock herr h
  by_cases haddr : addr < 0x1000 ∨ 0x7FFF < addr
  · exact .inl (hbadAddress haddr)
  · by_cases hlen : len ≤ 0x80
    · exact absurd (Engine.build_buildBlock_framed s.engine fn haddr hlen) (not_framed_of_lastRej h hrej)
    · obtain ⟨hlo, hhi⟩ := addr_inRange_iff.mp haddr
      exact .inr (hbadLength hlo hhi (BitVec.not_le.mp hlen))

/-- BUILD_BEGIN is rejected for its IV count (R145). -/
theorem errcode_of_rejected_begin {v : BitVec 1} (herr : s.engine.err = false)
    (h : perform (Engine.build (Engine.buildBegin v)) s = .next t) (hrej : t.engine.lastRej = true) :
    t.engine.errcode = 0x06 := by
  by_cases hcnt : s.engine.dinCnt.val = 14
  · exact absurd (Engine.build_buildBegin_framed v hcnt) (not_framed_of_lastRej h hrej)
  · exact errcode_of_perform_reject (e := s.engine.discardFrame) herr (Engine.build_buildBegin_badIvCount v hcnt) h

/-- BUILD_COMPLETE is rejected for its function (R160). -/
theorem errcode_of_rejected_complete (herr : s.engine.err = false)
    (h : perform (Engine.build (Engine.buildComplete fn)) s = .next t) (hrej : t.engine.lastRej = true) :
    t.engine.errcode = 0x07 := by
  by_cases hfn : fn ∈ [(0x00 : Byte), 0x01, 0x03]
  · exact absurd (Engine.build_buildComplete_framed s.engine hfn) (not_framed_of_lastRej h hrej)
  · exact errcode_of_perform_reject (e := s.engine.discardFrame) herr
      (Engine.build_buildComplete_badFunction s.engine hfn) h

/-- A word refused for a reserved bit has one (R77). -/
theorem reserved_of_decode (h : decode w = .error (.reservedNonzero m)) : w &&& m.format.reservedMask ≠ 0 := by
  unfold decode at h
  split at h
  · cases h
  · split at h <;> cases h
    assumption

/-! The framer and the CRC register (R141). -/

/-- The engine with another value in its CRC register. -/
def Engine.withCrc (c : Word) (e : Engine) : Engine := { e with crc := c }

theorem Engine.reject_withCrc (code : RejectCode) (c : Word) (e : Engine) :
    (e.withCrc c).reject code = (e.reject code).withCrc c := by
  rw [Engine.reject_eq, Engine.reject_eq]
  rfl

/-- A command whose checks and effects do not see the CRC register does not see it. -/
theorem Engine.command_withCrc (h : act (e.withCrc c) = (act e).map (Engine.withCrc c)) :
    (e.withCrc c).command act = (e.command act).withCrc c := by
  unfold Engine.command
  rw [h]
  cases act e with
  | ok e' => rfl
  | error code => exact Engine.reject_withCrc code c e

theorem Engine.buildBegin_withCrc (v : BitVec 1) (c : Word) (e : Engine) :
    (e.withCrc c).buildBegin v = (e.buildBegin v).map (Engine.withCrc c) := by
  rw [Engine.buildBegin, Engine.buildBegin, apply_ite (Except.map _)]
  rfl

theorem Engine.buildBlock_withCrc (fn : Byte) (addr : Half) (len : Byte) (c : Word) (e : Engine) :
    (e.withCrc c).buildBlock fn addr len = (e.buildBlock fn addr len).map (Engine.withCrc c) := by
  rw [Engine.buildBlock, Engine.buildBlock, apply_ite (Except.map _), apply_ite (Except.map _)]
  rfl

theorem Engine.buildComplete_withCrc (fn : Byte) (c : Word) (e : Engine) :
    (e.withCrc c).buildComplete fn = (e.buildComplete fn).map (Engine.withCrc c) := by
  rw [Engine.buildComplete, Engine.buildComplete, apply_ite (Except.map _)]
  rfl

/-- The framer commands (R75). -/
def framerCommands : List Mnemonic := [.buildBegin, .buildBlock, .buildBlockV, .buildComplete, .frameClear]

/-- A framer command is one operation on the engine that does not see the CRC register (R141). -/
theorem exec_framer_withCrc (hi : i.mnemonic ∈ framerCommands) :
    ∃ f : Engine → Engine, (∀ s, exec i s = perform f s) ∧ ∀ c e, f (e.withCrc c) = (f e).withCrc c := by
  cases i with
  | buildBegin v =>
    exact ⟨_, fun _ => rfl, fun c e => Engine.command_withCrc (e.discardFrame.buildBegin_withCrc v c)⟩
  | buildBlock addr len | buildBlockV addr len =>
    exact ⟨_, fun _ => rfl, fun c e => Engine.command_withCrc (e.discardFrame.buildBlock_withCrc _ addr len c)⟩
  | buildComplete fn =>
    exact ⟨_, fun _ => rfl, fun c e => Engine.command_withCrc (e.discardFrame.buildComplete_withCrc fn c)⟩
  | frameClear => exact ⟨_, fun _ => rfl, fun _ _ => rfl⟩
  | _ => simp [framerCommands, Instr.mnemonic] at hi

end Sys2Proof.Machine

/-! SUPPORT. The statements about all commands: causes, frames, noninterference (R141, R180). -/

namespace Sys2Proof.Machine

/-- Settles O12: each check that a command has raises one code, a command without a check is accepted, and a format without
reserved bits has no mask for a word to meet. -/
theorem rejectionCodesAndTheirCauses : Obligations.RejectionCodesAndTheirCauses := by
  refine ⟨by decide, fun i s t h hrej herr => ?_, fun w m hd => ?_⟩
  · cases i with
    | nop | softReset | errClear | crcInit | crcByte _ | crcDin | dinClear | sidLo _ | sidHi _ | frameClear =>
      rw [perform_next h] at hrej
      cases hrej
    | dinPush1 _ | dinPush2 _ _ | dinPush3 _ _ _ =>
      exact .inl ⟨by simp [Instr.mnemonic], errcode_of_rejected_push herr h hrej⟩
    | buildBlock _ _ | buildBlockV _ _ =>
      exact .inr (.inl ⟨by simp [Instr.mnemonic], errcode_of_rejected_block herr h hrej⟩)
    | buildBegin _ => exact .inr (.inr (.inl ⟨rfl, errcode_of_rejected_begin herr h hrej⟩))
    | buildComplete _ => exact .inr (.inr (.inr ⟨rfl, errcode_of_rejected_complete herr h hrej⟩))
  · have hr := reserved_of_decode hd
    refine ⟨?_, ?_, ?_⟩ <;>
    · rintro rfl
      exact hr BitVec.and_zero

/-- Settles O14: element by element, over the commands that are not named for it. -/
theorem commandsChangeOnlyTheirElements : Obligations.CommandsChangeOnlyTheirElements := by
  intro i s t h
  obtain ⟨f, hf⟩ := exec_eq_perform i s
  have ht : t = s.onEngine f := perform_next (hf.symm.trans h)
  exact ⟨fun hi => exec_crc_of_not_crcCommand hi h, fun hi => exec_sid_of_not_sidCommand hi h,
    fun hi => exec_staging_of_not_stagingCommand hi h, fun hi => exec_sameFrame hi h,
    fun hi hkept => exec_sameRecord hi h hkept, by rw [ht]; exact ⟨rfl, rfl, rfl⟩⟩

/-- Settles O35: the checks and the effects of a framer command commute with any change of the CRC register. -/
theorem framerIgnoresTheCrcRegister : Obligations.FramerIgnoresTheCrcRegister := by
  intro i s c hi
  obtain ⟨f, hf, hcrc⟩ := exec_framer_withCrc hi
  have hkeep : (f s.engine).crc = s.engine.crc := (congrArg Engine.crc (hcrc s.engine.crc s.engine) :)
  refine ⟨s.onEngine f, hf s, hkeep, ?_⟩
  have hother : exec i (s.onEngine (Engine.withCrc c)) = .next (s.onEngine fun e => (f e).withCrc c) := by
    rw [hf, perform, State.onEngine, State.onEngine_engine, hcrc]
    rfl
  exact hother

end Sys2Proof.Machine

/-! SUPPORT. The fields of the words that the host reads: STATUS (R30), and the words of the two windows (R34, R35). -/

namespace Sys2Proof.Machine

variable {n i j k : Nat} {b : Bool} {w : Word} {e : Engine}

/-- A bit of a word is its field of width 1. -/
theorem getLsbD_of_field (h : w.extractLsb' k 1 = BitVec.ofBool b) : w.getLsbD k = b := by
  have hbit := congrArg (·.getLsbD 0) h
  simpa using hbit

/-- A count of staged bytes fits the byte in which STATUS shows it (R30). -/
theorem dinCnt_eq_setWidth (cnt : Fin (Config.dinCap + 1)) :
    BitVec.ofNat 32 cnt.val = (BitVec.ofNat 8 cnt.val).setWidth 32 := by
  have hlt : cnt.val < 129 := cnt.isLt
  apply BitVec.eq_of_toNat_eq
  rw [BitVec.toNat_setWidth, BitVec.toNat_ofNat, BitVec.toNat_ofNat]
  omega

/-- The fields of STATUS (R30). -/
theorem statusWord_fields (e : Engine) :
    (statusWord e).extractLsb' 0 1 = BitVec.ofBool e.fvalid ∧ (statusWord e).extractLsb' 1 1 = BitVec.ofBool e.err ∧
    (statusWord e).extractLsb' 2 1 = BitVec.ofBool e.lastRej ∧ (statusWord e).extractLsb' 3 5 = 0 ∧
    (statusWord e).extractLsb' 8 8 = e.errcode ∧ (statusWord e).extractLsb' 16 8 = byteAt e.fbuf 0 ∧
    (statusWord e).extractLsb' 24 8 = BitVec.ofNat 8 e.dinCnt.val := by
  refine ⟨?_, ?_, ?_, ?_, ?_, ?_, ?_⟩ <;>
    simp (disch := omega) only [statusWord, flagBit, dinCnt_eq_setWidth, BitVec.extractLsb'_or, extractLsb'_field,
      extractLsb'_field_disjoint, extractLsb'_lowField, extractLsb'_lowField_disjoint, BitVec.ofNat_eq_ofNat,
      BitVec.or_zero, BitVec.zero_or]

/-- Without a frame STATUS shows the length 0 (R26, R30). -/
theorem statusWord_flen_of_noFrame (hc : e.FrameClean) (hv : e.fvalid = false) :
    (statusWord e).extractLsb' 16 8 = 0x00 := by
  obtain ⟨hnone, -⟩ := hc
  obtain ⟨-, -, -, -, -, hflen, -⟩ := statusWord_fields e
  rw [hflen, hnone hv, byteAt_replicate]

/-- Byte `i + j` of a buffer stands in bits `8j+7:8j` of its packed word (R11, R34). -/
theorem extractLsb'_pack32 (a : Vector Byte n) (i : Nat) (hj : j < 4) :
    (pack32 a i).extractLsb' (8 * j) 8 = byteAt a (i + j) := by
  match j, hj with
  | 0, _ | 1, _ | 2, _ | 3, _ =>
    simp (disch := omega) only [pack32, Nat.reduceMul, Nat.add_zero, BitVec.extractLsb'_or, extractLsb'_field,
      extractLsb'_field_disjoint, extractLsb'_lowField, extractLsb'_lowField_disjoint, BitVec.ofNat_eq_ofNat,
      BitVec.or_zero, BitVec.zero_or]

/-- Four bytes that are zero pack to the word 0. -/
theorem pack32_eq_zero {a : Vector Byte n} (h : ∀ k < 4, byteAt a (i + k) = 0x00) : pack32 a i = 0x00000000 := by
  have hzero : ∀ k < 4, (le32 0x00000000).getD k 0 = 0x00 := by decide
  exact pack32_of_le32 fun k hk => (h k hk).trans (hzero k hk).symm

/-- Where the staging buffer is clean the words from the count on read 0 (R25, R35). -/
theorem readRegister_din_of_stagingClean {k : Fin 32} (hc : e.StagingClean) (hk : e.dinCnt.val ≤ 4 * k.val) :
    readRegister (.din k) e = 0x00000000 := by
  refine pack32_eq_zero fun j hj => ?_
  have hlt : 4 * k.val + j < Config.dinCap := by
    have hk32 := k.isLt
    simp only [Config.dinCap]
    omega
  exact hc ⟨_, hlt⟩ (Nat.le_add_right_of_le hk)

/-- Where the frame is clean, and there is none, every FRAME word reads 0 (R26, R34). -/
theorem readRegister_frame_of_noFrame (k : Fin 35) (hc : e.FrameClean) (hv : e.fvalid = false) :
    readRegister (.frame k) e = 0x00000000 := by
  obtain ⟨hnone, -⟩ := hc
  rw [readRegister, hnone hv]
  exact pack32_replicate_zero _ _

end Sys2Proof.Machine

/-! SUPPORT. Where a bus access goes (R9, R51), and that every event is served (R57, R202, R205). -/

namespace Sys2Proof.Machine

variable {s t : State} {rest : List HostEvent} {a : WindowAccess} {b : BusAccess} {h : HostAccess} {r : Register}
  {w : Word} {i : Instr} {base : Nat}

/-- An access in the window is one at the offset of its address (R9, R51). -/
theorem route_in_window (hlo : base ≤ b.addr) (hhi : b.addr < base + 0x400) :
    HostAccess.route base (.bus b) = some ⟨BitVec.ofNat 10 (b.addr - base), b.bytes, b.beats, b.kind⟩ :=
  if_pos ⟨hlo, hhi⟩

/-- An access outside the window is not the engine's (R50, R51). -/
theorem route_outside_window (hout : b.addr < base ∨ base + 0x400 ≤ b.addr) :
    HostAccess.route base (.bus b) = none :=
  if_neg fun ⟨hlo, hhi⟩ => hout.elim (not_lt.mpr hlo) (not_le.mpr hhi)

/-- In the window the offset is the distance from `BASE`. -/
theorem toNat_offset {addr : Nat} (hlo : base ≤ addr) (hhi : addr < base + 0x400) :
    (BitVec.ofNat 10 (addr - base)).toNat = addr - base := by
  rw [BitVec.toNat_ofNat]
  omega

/-- A bus error changes the response only (R54, R186). -/
theorem performWindow_busError (ha : isBusError a) (s : State) :
    performWindow a s = .next (s.respond .busError) := by
  have hnone := target?_eq_none_iff.mpr ha
  rw [performWindow_of_noCommand (by simp [hnone]), windowAnswer_busError ha]

/-- Every window access is served within its step (R205). -/
theorem performWindow_next (a : WindowAccess) (s : State) :
    ∃ t, performWindow a s = .next t ∧ t.accesses = s.accesses := by
  obtain ⟨-, hp⟩ | ⟨_, -, hp⟩ | ⟨w, htgt, -⟩ := performWindow_cases a s
  · exact ⟨_, hp, rfl⟩
  · exact ⟨_, hp, rfl⟩
  · obtain ⟨f, -, hp⟩ := performWindow_of_command htgt s
    exact ⟨_, hp, rfl⟩

/-- An access that a reset overlaps is served all the same (R202). -/
theorem performOverlapped_next (h : HostAccess) (s : State) :
    ∃ t, performOverlapped h s = .next t ∧ t.accesses = s.accesses := by
  unfold performOverlapped
  split
  · exact ⟨_, rfl, rfl⟩
  · split <;> exact ⟨_, rfl, rfl⟩

/-- A read that a reset overlaps is answered by the free value (R202). -/
theorem performOverlapped_read (hroute : h.route Config.base = some a) (htgt : target? a = some (.read r))
    (ht : performOverlapped h s = .next t) :
    t.response = some (.readData (Config.overlappedRead s.overlapDraws)) := by
  simp only [performOverlapped, hroute, htgt] at ht
  cases ht
  rfl

/-- Every event is served (R57, R205). -/
theorem performEvent_next (ev : HostEvent) (s : State) :
    ∃ t, performEvent ev s = .next t ∧ t.accesses = s.accesses := by
  cases ev with
  | reset => exact ⟨_, rfl, rfl⟩
  | resetDuring h => exact performOverlapped_next h s
  | access h =>
    simp only [performEvent, performAccess]
    cases h.route Config.base with
    | none => exact ⟨_, rfl, rfl⟩
    | some a => exact performWindow_next a s

/-- No step stops the machine, and each takes the next access off the host's list (R57, R205). -/
theorem step_next (s : State) : ∃ t, step s = .next t ∧ t.accesses = s.accesses.drop 1 := by
  unfold step serveNext
  cases hs : s.accesses with
  | nil => exact ⟨s, rfl, hs⟩
  | cons ev rest => exact performEvent_next ev { s with accesses := rest }

/-- A step that takes a write to CMD runs its word and completes the write (R53, R181). -/
theorem step_hostWrite_cmd (hs : s.accesses = hostWrite 0x000 w :: rest) :
    ∃ t, execute w { s with accesses := rest } = .next t ∧ step s = .next (t.respond .writeDone) := by
  have hcmd : target? ⟨0x000, 4, 1, .write w⟩ = some (.command w) :=
    target?_eq_command_iff.mpr ⟨⟨rfl, rfl, rfl⟩, rfl, rfl⟩
  obtain ⟨f, hx, hp⟩ := performWindow_of_command hcmd { s with accesses := rest }
  exact ⟨_, hx, (step_window hs).trans hp⟩

end Sys2Proof.Machine

/-! SUPPORT. The statements about what the host reads and how its accesses are served (R30 to R35, R51, R57, R202). -/

namespace Sys2Proof.Machine

/-- Settles O44: the fields of STATUS stand side by side, so that each reads back; the count is at most 128. -/
theorem statusShowsItsFields : Obligations.StatusShowsItsFields := by
  refine ⟨fun e => ?_, fun _ => statusWord_flen_of_noFrame, statusWord_reset⟩
  obtain ⟨hfvalid, herr, hlastRej, hzero, herrcode, hflen, hcnt⟩ := statusWord_fields e
  refine ⟨getLsbD_of_field hfvalid, getLsbD_of_field herr, getLsbD_of_field hlastRej, hzero, herrcode, hflen, ?_⟩
  have hlt : e.dinCnt.val < 129 := e.dinCnt.isLt
  rw [hcnt, BitVec.toNat_ofNat]
  omega

/-- Settles O46: both windows pack four bytes to a word, the lowest lowest. -/
theorem windowsShowTheLowestByteLowest : Obligations.WindowsShowTheLowestByteLowest :=
  ⟨fun e k _ hj => extractLsb'_pack32 e.fbuf (4 * k.val) hj, fun e k _ hj => extractLsb'_pack32 e.din (4 * k.val) hj,
    fun _ k => readRegister_frame_of_noFrame k, fun _ _ => readRegister_din_of_stagingClean⟩

/-- Settles O48: `BASE` is a multiple of 4, so that an address in the window is aligned exactly when its offset is. -/
theorem windowAccessesForEveryBase : Obligations.WindowAccessesForEveryBase := by
  intro base addr bytes beats kind hbase
  refine ⟨fun hlo hhi => ?_, fun hout => route_outside_window hout⟩
  have hroute := route_in_window (b := ⟨addr, bytes, beats, kind⟩) hlo hhi
  have hoff := toNat_offset hlo hhi
  have halign : (BitVec.ofNat 10 (addr - base)).toNat % 4 = addr % 4 := by omega
  refine ⟨?_, fun hbad => ?_⟩
  · rintro rfl rfl hword
    exact ⟨_, by omega, halign.trans hword, hroute⟩
  · have hbusError : isBusError ⟨BitVec.ofNat 10 (addr - base), bytes, beats, kind⟩ := .inl (by rwa [halign])
    exact ⟨_, hroute, hbusError, performWindow_busError hbusError⟩

/-- Settles O51, by induction on the number of steps. -/
theorem everyAccessIsServed : Obligations.EveryAccessIsServed := by
  intro n
  induction n with
  | zero => exact fun s => ⟨s, rfl, rfl⟩
  | succ n ih =>
    intro s
    obtain ⟨u, hu, hfirst⟩ := step_next s
    obtain ⟨t, ht, hothers⟩ := ih u
    refine ⟨t, (run_succ hu n).trans ht, ?_⟩
    rw [hothers, hfirst, List.drop_drop, Nat.add_comm]

/-- Settles O9: the word runs as the command it decodes to. -/
theorem stepRunsTheDecodedCommand : Obligations.StepRunsTheDecodedCommand := by
  intro s rest w i hs hd
  obtain ⟨t, hx, hstep⟩ := step_hostWrite_cmd hs
  rw [execute, hd] at hx
  exact ⟨t, hx, hstep⟩

/-- Settles O53: whatever the access was for, the engine is reset after it. -/
theorem resetOverlappingAnAccessLosesItsEffects : Obligations.ResetOverlappingAnAccessLosesItsEffects := by
  intro s rest h hs
  obtain ⟨t, ht, haccesses⟩ := performOverlapped_next h { s with accesses := rest }
  refine ⟨t, ?_, performOverlapped_engine ht, haccesses, fun _ _ hroute htgt => ?_⟩
  · rw [step, serveNext, hs]
    exact ht
  · exact performOverlapped_read (s := { s with accesses := rest }) hroute htgt ht

end Sys2Proof.Machine

/-! SUPPORT. What the expansions of R81 leave: SID_SET and CRC_OF, and a BUILD_* after DIN_LOAD. -/

namespace Sys2Proof.Machine

variable {s t : State} {e : Engine} {i : Instr} {bytes frame : List Byte} {f : Engine → Engine}
  {v w : Word}

/-- A word is its two halves. -/
theorem eq_of_halves (hlo : v.extractLsb' 0 16 = w.extractLsb' 0 16)
    (hhi : v.extractLsb' 16 16 = w.extractLsb' 16 16) : v = w := by
  apply BitVec.eq_of_getLsbD_eq
  intro k hk
  by_cases hk16 : k < 16
  · have hbit := congrArg (·.getLsbD k) hlo
    simpa [hk16] using hbit
  · have hbit := congrArg (·.getLsbD (k - 16)) hhi
    simpa [show k - 16 < 16 by omega, show 16 + (k - 16) = k by omega] using hbit

/-- SID_SET loads its value, half by half (R81, R126, R127). -/
theorem execAll_sidSet (imm32 : Word) (s : State) :
    execAll (sidSet imm32) s = .next { s with engine := { s.engine with sid := imm32, lastRej := false } } := by
  obtain ⟨-, hload, -⟩ := sidLoLoadsTheLowHalf
  obtain ⟨low, hx, hlow, -⟩ := hload s (imm32.extractLsb' 0 16)
  obtain ⟨-, hload', -⟩ := sidHiLoadsTheHighHalf
  obtain ⟨sid, hx', hhi, hlo⟩ := hload' { s with engine := { s.engine with sid := low, lastRej := false } }
    (imm32.extractLsb' 16 16)
  have hsid : sid = imm32 := eq_of_halves (hlo.trans hlow) hhi
  rw [sidSet, execAll_cons hx, execAll_cons hx', hsid]
  rfl

/-- What DIN_LOAD leaves is clean (R25). -/
theorem Engine.Stages.clean (h : e.Stages bytes) : e.StagingClean := by
  obtain ⟨hcnt, hdin⟩ := h
  intro i hi
  rw [byteAt_toList, hdin, getD_append_zeros]
  exact List.getD_eq_default _ _ (hcnt ▸ hi)

theorem StagedFrom.sid (h : StagedFrom s t) : t.engine.sid = s.engine.sid := by
  obtain ⟨_, _, rfl⟩ := h
  rfl

theorem StagedFrom.err (h : StagedFrom s t) : t.engine.err = s.engine.err := by
  obtain ⟨_, _, rfl⟩ := h
  rfl

theorem StagedFrom.sameFrame (h : StagedFrom s t) : s.engine.SameFrame t.engine := by
  obtain ⟨_, _, rfl⟩ := h
  exact ⟨rfl, rfl⟩

theorem Engine.SameFrame.trans {e' e'' : Engine} (h : e.SameFrame e') (h' : e'.SameFrame e'') : e.SameFrame e'' :=
  ⟨h'.left.trans h.left, h'.right.trans h.right⟩

/-- CRC_DIN leaves what is staged as it is (R108). -/
theorem exec_crcDin_stages (h : exec .crcDin s = .next t) (hstage : s.engine.Stages bytes) : t.engine.Stages bytes := by
  obtain ⟨hdin, hcnt⟩ := exec_staging_of_not_stagingCommand (by decide) h
  rwa [Engine.Stages, hdin, hcnt]

/-- CRC_OF feeds its bytes from CRC_INIT on, leaves them staged, and changes neither `sid` nor the frame (R81). -/
theorem execAll_crcOf (bytes : List Byte) (hfit : bytes.length ≤ Config.dinCap) (s : State) :
    ∃ t, execAll (crcOf bytes) s = .next t ∧ t.engine.HasFed bytes ∧ t.engine.Stages bytes ∧
      t.engine.sid = s.engine.sid ∧ s.engine.SameFrame t.engine := by
  obtain ⟨r, hinit⟩ : ∃ r, exec .crcInit s = .next r := ⟨_, rfl⟩
  obtain ⟨u, hload, hru, hstage⟩ := execAll_dinLoad bytes hfit r
  obtain ⟨t, hdin⟩ : ∃ t, exec .crcDin u = .next t := ⟨_, rfl⟩
  refine ⟨t, ?_, ?_, exec_crcDin_stages hdin hstage, ?_, ?_⟩
  · rw [crcOf, List.cons_append, execAll_cons hinit, execAll_append hload, execAll_cons hdin]
    rfl
  · have hfed := exec_hasFed (Engine.hasFed_of_crc_eq (fed := []) (execCrcInit_crc hinit) hru.crc) hdin
    rwa [fedAfterCommand, stagedBytes_of_stages hstage] at hfed
  · rw [exec_sid_of_not_sidCommand (by decide) hdin, hru.sid, exec_sid_of_not_sidCommand (by decide) hinit]
  · exact ((exec_sameFrame (by decide) hinit).trans hru.sameFrame).trans (exec_sameFrame (by decide) hdin)

/-- `t` has the frame, records no rejection of the last command, and has the sticky flag of `s`. -/
def BuiltFrom (frame : List Byte) (s t : State) : Prop :=
  t.engine.fvalid = true ∧ t.engine.lastRej = false ∧ t.engine.err = s.engine.err ∧ holdsFrame t.engine.fbuf frame

/-- A BUILD_* after DIN_LOAD leaves its frame, with no rejection recorded, if it frames what is then staged. -/
theorem execAll_dinLoad_build (hfit : bytes.length ≤ Config.dinCap) (hx : ∀ u, exec i u = perform f u)
    (hframed : ∀ e : Engine, e.sid = s.engine.sid → e.Stages bytes → Framed frame e (f e)) :
    ∃ t, execAll (dinLoad bytes ++ [i]) s = .next t ∧ BuiltFrom frame s t := by
  obtain ⟨u, hload, hsu, hstage⟩ := execAll_dinLoad bytes hfit s
  obtain ⟨fbuf, hbuild, hfbuf⟩ := perform_of_framed (hframed u.engine hsu.sid hstage)
  refine ⟨{ u with engine := { u.engine with fbuf := fbuf, fvalid := true, lastRej := false } }, ?_, rfl, rfl, hsu.err,
    hfbuf⟩
  rw [execAll_append hload, execAll_cons ((hx u).trans hbuild)]
  rfl

/-- BEGIN (R81, R83). -/
theorem execAll_beginSeq {iv : List Byte} (hiv : iv.length = 14) (sid : Word) (v : BitVec 1) (s : State) :
    ∃ t, execAll (beginSeq sid iv v) s = .next t ∧ BuiltFrom (beginFrame sid iv (v.setWidth 8)) s t := by
  rw [beginSeq, List.append_assoc, execAll_append (execAll_sidSet sid s)]
  refine execAll_dinLoad_build (f := Engine.build (Engine.buildBegin v)) (by simp [hiv, Config.dinCap]) (fun _ => rfl)
    fun e hsid hstage => ?_
  obtain ⟨hcnt, hdin⟩ := hstage
  have hframed := Engine.build_buildBegin_framed v (hcnt.trans hiv)
  rwa [hsid, hdin, List.take_left' hiv] at hframed

/-- BLOCK (R81, R84). -/
theorem execAll_blockSeq {addr : Half} {len : Byte} {data : List Byte} (haddr : ¬ (addr < 0x1000 ∨ 0x7FFF < addr))
    (hlen : len ≤ 0x80) (hdata : data.length ≤ Config.dinCap) (verify : BitVec 1) (s : State) :
    ∃ t, execAll (blockSeq addr len verify data) s = .next t ∧
      BuiltFrom (blockFrame addr len (verify.setWidth 8) (data ++ zeros (128 - data.length))) s t := by
  refine execAll_dinLoad_build (f := Engine.build (Engine.buildBlock (verify.setWidth 8) addr len)) hdata (fun u => ?_)
    fun e _ ⟨_, hdin⟩ => hdin ▸ Engine.build_buildBlock_framed e _ haddr hlen
  rw [flag_setWidth]
  split <;> rfl

/-- COMPLETE (R81, R85). -/
theorem execAll_completeSeq {fn : Byte} {version : List Byte} (hfn : fn ∈ [0x00, 0x01, 0x03])
    (hversion : version.length ≤ Config.dinCap) (s : State) :
    ∃ t, execAll (completeSeq fn version) s = .next t ∧
      BuiltFrom (completeFrame s.engine.sid fn (version.take 120 ++ zeros (120 - version.length))) s t := by
  refine execAll_dinLoad_build (f := Engine.build (Engine.buildComplete fn)) hversion (fun _ => rfl)
    fun e hsid hstage => ?_
  have hframed := Engine.build_buildComplete_framed e hfn
  rwa [hsid, din_take_eq_stagedBytes_zeros hstage.clean, stagedBytes_of_stages hstage, hstage.left] at hframed

end Sys2Proof.Machine

/-! SUPPORT. The statements about the pseudo-instructions (R81 to R86, R105). -/

namespace Sys2Proof.Machine

/-- Settles O54: DIN_CLEAR empties the buffer, and the pushes append the bytes in order. -/
theorem dinLoadStagesExactlyItsBytes : Obligations.DinLoadStagesExactlyItsBytes := by
  intro s bytes hfit
  obtain ⟨_, ht, ⟨din, cnt, rfl⟩, hcnt, hdin⟩ := execAll_dinLoad bytes hfit s
  exact ⟨din, cnt, ht, hcnt, hdin⟩

/-- Settles O55: CRC_DIN feeds what DIN_LOAD staged, from the value CRC_INIT set; the halves of a word determine it. -/
theorem crcOfAndSidSetLeaveTheirValues : Obligations.CrcOfAndSidSetLeaveTheirValues := by
  refine ⟨fun s bytes hfit => ?_, fun s imm32 => execAll_sidSet imm32 s⟩
  obtain ⟨t, ht, hfed, hstage, hsid, hfbuf, hfvalid⟩ := execAll_crcOf bytes hfit s
  exact ⟨t, ht, readRegister_crcValue_of_fold hfed, stagedBytes_of_stages hstage, hsid, hfbuf, hfvalid⟩

/-- Settles O56: after DIN_LOAD the inputs of the BUILD_* are the bytes given and the zeros after them. -/
theorem frameSequencesBuildTheirFrames : Obligations.FrameSequencesBuildTheirFrames :=
  ⟨fun s sid _ v hiv => execAll_beginSeq hiv sid v s,
    fun s _ _ verify _ hlo hhi hlen hdata => execAll_blockSeq (addr_inRange_iff.mpr ⟨hlo, hhi⟩) hlen hdata verify s,
    fun s _ _ hfn hversion => execAll_completeSeq (mem_functions_iff.mpr hfn) hversion s⟩

end Sys2Proof.Machine

/-! SUPPORT. Lines of assembly: numbers that fit are the values of operands, and a well-formed line assembles (R80, R81). -/

namespace Sys2Proof.Machine

variable {width n : Nat} {widths xs operands : List Nat} {bytes : List Byte} {is : List Instr} {m : Mnemonic}
  {p : Pseudo} {l : AsmLine}

/-! Numbers that fit their fields. -/

theorem fitsFields_nil_iff : fitsFields [] xs = true ↔ xs = [] := by
  cases xs <;> simp [fitsFields]

/-- The first number is the value of a field, and the others fit theirs. -/
theorem fitsFields_cons_iff : fitsFields (width :: widths) xs = true ↔
    ∃ (x : BitVec width) (rest : List Nat), xs = x.toNat :: rest ∧ fitsFields widths rest = true := by
  cases xs with
  | nil => simp [fitsFields]
  | cons y ys =>
    simp only [fitsFields, Bool.and_eq_true, decide_eq_true_eq, List.cons.injEq]
    constructor
    · rintro ⟨hy, hys⟩
      exact ⟨BitVec.ofNatLT y hy, ys, ⟨rfl, rfl⟩, hys⟩
    · rintro ⟨x, _, ⟨rfl, rfl⟩, hys⟩
      exact ⟨x.isLt, hys⟩

/-- As many bytes, and then numbers that fit the other fields. -/
theorem fitsFields_bytes_append_iff : fitsFields (List.replicate n 8 ++ widths) xs = true ↔
    ∃ (bytes : List Byte) (rest : List Nat), bytes.length = n ∧ xs = bytes.map BitVec.toNat ++ rest ∧
      fitsFields widths rest = true := by
  induction n generalizing xs with
  | zero => simp [List.length_eq_zero_iff]
  | succ n ih =>
    simp only [List.replicate_succ, List.cons_append, fitsFields_cons_iff, ih]
    constructor
    · rintro ⟨b, _, rfl, bytes, rest, rfl, rfl, hrest⟩
      exact ⟨b :: bytes, rest, rfl, rfl, hrest⟩
    · rintro ⟨_ | ⟨b, bytes⟩, rest, hlen, rfl, hrest⟩
      · cases hlen
      · exact ⟨b, _, rfl, bytes, rest, Nat.succ.inj hlen, rfl, hrest⟩

/-- The values of fields fit them. -/
theorem fitsFields_toNat_cons (x : BitVec width) :
    fitsFields (width :: widths) (x.toNat :: xs) = fitsFields widths xs := by
  simp only [fitsFields, x.isLt, decide_true, Bool.true_and]

theorem asBytes_map_toNat (bytes : List Byte) : asBytes (bytes.map BitVec.toNat) = bytes := by
  simp [asBytes, Function.comp_def]

/-- Numbers that fit a byte each are those of the bytes they are taken as. -/
theorem map_toNat_asBytes (h : ∀ x ∈ xs, x < 256) : (asBytes xs).map BitVec.toNat = xs := by
  rw [asBytes, List.map_map]
  refine (List.map_congr_left fun x hx => ?_).trans (List.map_id xs)
  exact Nat.mod_eq_of_lt (h x hx)

/-- Numbers that DIN_LOAD can stage are at most 128 bytes. -/
theorem fitsDin_iff : fitsDin xs = true ↔ ∃ bytes : List Byte, bytes.length ≤ 128 ∧ xs = bytes.map BitVec.toNat := by
  simp only [fitsDin, Bool.and_eq_true, List.all_eq_true, decide_eq_true_eq]
  constructor
  · rintro ⟨hbytes, hlen⟩
    exact ⟨asBytes xs, by simpa [asBytes] using hlen, (map_toNat_asBytes hbytes).symm⟩
  · rintro ⟨bytes, hlen, rfl⟩
    refine ⟨fun x hx => ?_, by simpa using hlen⟩
    obtain ⟨b, -, rfl⟩ := List.mem_map.mp hx
    exact b.isLt

/-! What a line means. -/

/-- What the line of a pseudo-instruction means: its numbers are operands it takes, and `is` is its expansion with them
(R81). -/
def PseudoMeans (p : Pseudo) (operands : List Nat) (is : List Instr) : Prop :=
  match p with
  | .sidSet => ∃ imm32 : Word, operands = [imm32.toNat] ∧
      is = [.sidLo (imm32.extractLsb' 0 16), .sidHi (imm32.extractLsb' 16 16)]
  | .dinLoad => ∃ bytes : List Byte, bytes.length ≤ 128 ∧ operands = bytes.map BitVec.toNat ∧ is = dinLoad bytes
  | .crcOf => ∃ bytes : List Byte, bytes.length ≤ 128 ∧ operands = bytes.map BitVec.toNat ∧
      is = [.crcInit] ++ dinLoad bytes ++ [.crcDin]
  | .beginFrame => ∃ (sid : Word) (iv : List Byte) (v : BitVec 1), iv.length = 14 ∧
      operands = [sid.toNat] ++ iv.map BitVec.toNat ++ [v.toNat] ∧
      is = [.sidLo (sid.extractLsb' 0 16), .sidHi (sid.extractLsb' 16 16)] ++ dinLoad iv ++ [.buildBegin v]
  | .block => ∃ (addr : Half) (len : Byte) (verify : BitVec 1) (data : List Byte), data.length ≤ 128 ∧
      operands = [addr.toNat, len.toNat, verify.toNat] ++ data.map BitVec.toNat ∧
      is = dinLoad data ++ [if verify = 0 then .buildBlock addr len else .buildBlockV addr len]
  | .complete => ∃ (fn : Byte) (version : List Byte), version.length ≤ 128 ∧
      operands = [fn.toNat] ++ version.map BitVec.toNat ∧ is = dinLoad version ++ [.buildComplete fn]

/-- What a line means: one command with the line's numbers as its operands, or an expansion (R80, R81). -/
def LineMeans (l : AsmLine) (is : List Instr) : Prop :=
  match l.op with
  | .command m => ∃ i, is = [i] ∧ i.mnemonic = m ∧ operandsOf i = l.operands
  | .pseudo p => PseudoMeans p l.operands is

/-- Numbers that fit the fields of a command are the operands of one. -/
theorem exists_instr_of_fits (h : fitsFields m.format.operandWidths operands = true) :
    ∃ i, instrOfOperands m operands = some i ∧ i.mnemonic = m ∧ operandsOf i = operands := by
  cases m <;> simp only [Mnemonic.format, Format.operandWidths, fitsFields_cons_iff, fitsFields_nil_iff] at h
  case nop | softReset | errClear | crcInit | crcDin | dinClear | frameClear =>
    subst h
    exact ⟨_, rfl, rfl, rfl⟩
  case crcByte | dinPush1 | sidLo | sidHi | buildBegin | buildComplete =>
    obtain ⟨x, _, rfl, rfl⟩ := h
    exact ⟨_, rfl, rfl, by simp [operandsOf]⟩
  case dinPush2 | buildBlock | buildBlockV =>
    obtain ⟨x, _, rfl, y, _, rfl, rfl⟩ := h
    exact ⟨_, rfl, rfl, by simp [operandsOf]⟩
  case dinPush3 =>
    obtain ⟨x, _, rfl, y, _, rfl, z, _, rfl, rfl⟩ := h
    exact ⟨_, rfl, rfl, by simp [operandsOf]⟩

/-- The operands of a command fit its fields. -/
theorem fits_operandsOf (i : Instr) : fitsFields i.mnemonic.format.operandWidths (operandsOf i) = true := by
  cases i <;> simp only [Instr.mnemonic, Mnemonic.format, Format.operandWidths, operandsOf, fitsFields_toNat_cons,
    fitsFields_nil_iff]

/-- A command is the one of its mnemonic with its operands. -/
theorem instrOfOperands_operandsOf (i : Instr) : instrOfOperands i.mnemonic (operandsOf i) = some i := by
  cases i <;> simp [instrOfOperands, Instr.mnemonic, operandsOf]

/-- Numbers that a pseudo-instruction takes are operands of it (R81). -/
theorem exists_pseudoMeans_of_fit (h : p.operandsFit operands = true) : ∃ is, PseudoMeans p operands is := by
  cases p <;> simp only [Pseudo.operandsFit, Bool.and_eq_true, fitsFields_cons_iff, fitsFields_bytes_append_iff,
    fitsFields_nil_iff, fitsDin_iff] at h
  case sidSet =>
    obtain ⟨imm32, _, rfl, rfl⟩ := h
    exact ⟨_, imm32, rfl, rfl⟩
  case dinLoad | crcOf =>
    obtain ⟨bytes, hlen, hops⟩ := h
    exact ⟨_, bytes, hlen, hops, rfl⟩
  case beginFrame =>
    obtain ⟨sid, _, rfl, iv, _, hiv, rfl, v, _, rfl, rfl⟩ := h
    exact ⟨_, sid, iv, v, hiv, rfl, rfl⟩
  case block =>
    obtain ⟨⟨addr, _, htake, len, _, rfl, verify, _, rfl, rfl⟩, data, hlen, hdrop⟩ := h
    exact ⟨_, addr, len, verify, data, hlen, by rw [← htake, ← hdrop, List.take_append_drop], rfl⟩
  case complete =>
    obtain ⟨⟨fn, _, htake, rfl⟩, version, hlen, hdrop⟩ := h
    exact ⟨_, fn, version, hlen, by rw [← htake, ← hdrop, List.take_append_drop], rfl⟩

/-- The operands of BEGIN after the session id: the IV and V. -/
theorem beginOperands_parts {iv : List Byte} (hiv : iv.length = 14) (v : BitVec 1) :
    asBytes ((iv.map BitVec.toNat ++ [v.toNat]).take 14) = iv ∧
      BitVec.ofNat 1 ((iv.map BitVec.toNat ++ [v.toNat]).getD 14 0) = v := by
  have hlen : (iv.map BitVec.toNat).length = 14 := by rw [List.length_map, hiv]
  rw [List.take_left' hlen, asBytes_map_toNat, List.getD_append_right _ _ _ _ hlen.le, hlen]
  exact ⟨rfl, BitVec.ofNat_toNat 1 v⟩

/-- VERIFY is one bit, so that it is 0 where it is not 1. -/
theorem verify_command (addr : Half) (len : Byte) (verify : BitVec 1) :
    (if verify = 1 then Instr.buildBlockV addr len else .buildBlock addr len) =
      if verify = 0 then .buildBlock addr len else .buildBlockV addr len := by
  have hbit : ∀ v : BitVec 1, v = 1 ↔ ¬ v = 0 := by decide
  simp only [hbit verify, ite_not]

/-- Operands of a pseudo-instruction are numbers that it takes, and with them it expands (R81). -/
theorem PseudoMeans.expands (h : PseudoMeans p operands is) :
    p.operandsFit operands = true ∧ expandPseudo p operands = some is := by
  cases p with
  | sidSet =>
    obtain ⟨imm32, rfl, rfl⟩ := h
    exact ⟨fitsFields_toNat_cons imm32, by rw [expandPseudo, BitVec.ofNat_toNat, BitVec.setWidth_eq, sidSet]⟩
  | dinLoad =>
    obtain ⟨bytes, hlen, rfl, rfl⟩ := h
    exact ⟨fitsDin_iff.mpr ⟨bytes, hlen, rfl⟩, congrArg (fun bs => some (dinLoad bs)) (asBytes_map_toNat bytes)⟩
  | crcOf =>
    obtain ⟨bytes, hlen, rfl, rfl⟩ := h
    exact ⟨fitsDin_iff.mpr ⟨bytes, hlen, rfl⟩, congrArg (fun bs => some (crcOf bs)) (asBytes_map_toNat bytes)⟩
  | beginFrame =>
    obtain ⟨sid, iv, v, hiv, rfl, rfl⟩ := h
    obtain ⟨hbytes, hflag⟩ := beginOperands_parts hiv v
    refine ⟨(fitsFields_toNat_cons sid).trans (fitsFields_bytes_append_iff.mpr
      ⟨iv, _, hiv, rfl, fitsFields_toNat_cons v⟩), ?_⟩
    rw [List.append_assoc, List.singleton_append, expandPseudo, hbytes, hflag, BitVec.ofNat_toNat]
    rfl
  | block =>
    obtain ⟨addr, len, verify, data, hlen, rfl, rfl⟩ := h
    have hdata : fitsDin (data.map BitVec.toNat) = true := fitsDin_iff.mpr ⟨data, hlen, rfl⟩
    refine ⟨?_, ?_⟩
    · simp only [Pseudo.operandsFit, List.cons_append, List.nil_append, List.take, List.drop, fitsFields_toNat_cons,
        fitsFields_nil_iff, hdata, Bool.and_eq_true, and_self]
    · rw [← verify_command]
      simp only [List.cons_append, List.nil_append, expandPseudo, asBytes_map_toNat, BitVec.ofNat_toNat,
        BitVec.setWidth_eq, blockSeq]
  | complete =>
    obtain ⟨fn, version, hlen, rfl, rfl⟩ := h
    have hversion : fitsDin (version.map BitVec.toNat) = true := fitsDin_iff.mpr ⟨version, hlen, rfl⟩
    refine ⟨?_, ?_⟩
    · simp only [Pseudo.operandsFit, List.cons_append, List.nil_append, List.take, List.drop, fitsFields_toNat_cons,
        fitsFields_nil_iff, hversion, Bool.and_eq_true, and_self]
    · simp only [List.cons_append, List.nil_append, expandPseudo, asBytes_map_toNat, BitVec.ofNat_toNat,
        BitVec.setWidth_eq, completeSeq]

/-! Lines assemble as they mean. -/

/-- A well-formed line means something. -/
theorem exists_lineMeans (h : l.wellFormed = true) : ∃ is, LineMeans l is := by
  obtain ⟨op, operands⟩ := l
  cases op with
  | command m =>
    obtain ⟨i, -, hm, hops⟩ := exists_instr_of_fits h
    exact ⟨[i], i, rfl, hm, hops⟩
  | pseudo p => exact exists_pseudoMeans_of_fit h

/-- A line that means something is well formed, and assembles to it. -/
theorem LineMeans.assembles (h : LineMeans l is) : l.wellFormed = true ∧ assemble l = some is := by
  obtain ⟨op, operands⟩ := l
  cases op with
  | command m =>
    obtain ⟨i, rfl, rfl, rfl⟩ := h
    have hfit := fits_operandsOf i
    exact ⟨hfit, (if_pos hfit).trans (congrArg (Option.map fun i => [i]) (instrOfOperands_operandsOf i))⟩
  | pseudo p =>
    obtain ⟨hfit, hexpand⟩ := PseudoMeans.expands h
    exact ⟨hfit, (if_pos hfit).trans hexpand⟩

theorem assemble_isSome (l : AsmLine) : (assemble l).isSome = l.wellFormed := by
  cases hwf : l.wellFormed with
  | false => simp [assemble, hwf]
  | true =>
    obtain ⟨is, hmeans⟩ := exists_lineMeans hwf
    rw [hmeans.assembles.right, Option.isSome_some]

/-- A line assembles to what it means, and to nothing else. -/
theorem assemble_eq_some_iff : assemble l = some is ↔ LineMeans l is := by
  refine ⟨fun h => ?_, fun h => h.assembles.right⟩
  have hwf : l.wellFormed = true := by rw [← assemble_isSome, h, Option.isSome_some]
  obtain ⟨js, hmeans⟩ := exists_lineMeans hwf
  rwa [Option.some.inj (h.symm.trans hmeans.assembles.right)]

/-- DIN_LOAD counts its pushes by threes, and pushes the rest (R81). -/
theorem pushAll_eq (bytes : List Byte) : pushAll bytes =
    ((List.range (bytes.length / 3)).map fun k =>
      .dinPush3 (bytes.getD (3 * k) 0x00) (bytes.getD (3 * k + 1) 0x00) (bytes.getD (3 * k + 2) 0x00)) ++
    (if bytes.length % 3 = 1 then [.dinPush1 (bytes.getD (bytes.length - 1) 0x00)]
     else if bytes.length % 3 = 2 then
      [.dinPush2 (bytes.getD (bytes.length - 2) 0x00) (bytes.getD (bytes.length - 1) 0x00)]
     else []) := by
  induction bytes using pushAll.induct with
  | case1 | case2 _ | case3 _ _ => simp [pushAll]
  | case4 b0 b1 b2 rest ih =>
    have hdiv : (rest.length + 3) / 3 = rest.length / 3 + 1 := by omega
    have hmod : (rest.length + 3) % 3 = rest.length % 3 := by omega
    rw [pushAll, ih]
    simp only [List.length_cons, hdiv, hmod, List.range_succ_eq_map, List.map_cons, List.map_map, List.cons_append]
    refine congrArg (Instr.dinPush3 b0 b1 b2 :: ·) (congrArg (List.map _ _ ++ ·) ?_)
    split_ifs
    · rw [show rest.length + 3 - 1 = rest.length - 1 + 3 by omega]
      rfl
    · rw [show rest.length + 3 - 1 = rest.length - 1 + 3 by omega,
        show rest.length + 3 - 2 = rest.length - 2 + 3 by omega]
      rfl
    · rfl

end Sys2Proof.Machine

/-! SUPPORT. The statement about assembly (R80, R81). -/

namespace Sys2Proof.Machine

/-- Settles O8: a line assembles to what it means, and means something exactly when it is well formed. -/
theorem assemblyNeverTruncates : Obligations.AssemblyNeverTruncates :=
  ⟨assemble_isSome, fun _ _ _ => assemble_eq_some_iff, fun _ _ => assemble_eq_some_iff, fun _ _ => assemble_eq_some_iff,
    fun _ _ => assemble_eq_some_iff, fun _ _ => assemble_eq_some_iff, fun _ _ => assemble_eq_some_iff,
    fun _ _ => assemble_eq_some_iff, fun bytes => congrArg (Instr.dinClear :: ·) (pushAll_eq bytes)⟩

end Sys2Proof.Machine
